-- ==== Sys2Proof/Word.lean ====
section
/-! DEFINITION. The machine's words: the widths of 00_scope.md R4 and R6. Every value is unsigned. -/

namespace Sys2Proof

/-- An 8-bit value: a general register, a memory byte, a timer (R4, R6, R20, R27, R31). -/
abbrev Byte := BitVec 8

/-- A 12-bit value: an address, `pc`, `I`, a stack entry (R4, R6, R22, R24, R25). -/
abbrev Addr := BitVec 12

/-- A 16-bit instruction word (R4, R70). -/
abbrev Word := BitVec 16

/-- A 4-bit field of the instruction word: a register number `X`, `Y`, or the count `N` (R71, R73). -/
abbrev Nibble := BitVec 4

end Sys2Proof
end

