-- ==== Sys2Proof/Machine/Flags.lean ====
section
/-! DEFINITION. Results and flags of the ALU (42_alu.md R131): the exact result on integers first, the flag from the exact
result, the reduction modulo 256 last. -/

namespace Sys2Proof.Machine

open Sys2Proof

/-- `trunc_8(v)` (R6): the value modulo 256, for an integer that may be negative. -/
def trunc8 (v : Int) : Byte := BitVec.ofInt 8 v

/-- A condition as the byte VF gets: exactly 0x01 or 0x00 (R21). -/
def flagByte (c : Bool) : Byte := if c then 1 else 0

/-- The exact sum, 0..510 (R126). -/
def exactSum (a b : Byte) : Nat := a.toNat + b.toNat

/-- The exact difference, -255..255 (R127). -/
def exactDiff (a b : Byte) : Int := (a.toNat : Int) - (b.toNat : Int)

/-- Carry out of bit 7: the exact sum is greater than 255 (R126). -/
def carryFlag (a b : Byte) : Byte := flagByte (decide (exactSum a b > 255))

/-- No borrow: minuend not less than subtrahend, unsigned (R127, R129). -/
def noBorrowFlag (a b : Byte) : Byte := flagByte (decide (exactDiff a b ≥ 0))

/-- The bit a right shift moves out (R128). -/
def lowBitFlag (a : Byte) : Byte := flagByte (decide (a.toNat % 2 = 1))

/-- The bit a left shift moves out, as 0 or 1 (R130). -/
def highBitFlag (a : Byte) : Byte := flagByte (decide (a.toNat / 128 = 1))

end Sys2Proof.Machine
end

