-- ==== Sys2Proof/Syntax.lean ====
section
/-! DEFINITION. The instructions: one constructor per row of the opcode map (30_encoding.md R80), named by the row's
pattern, which is the spec's primary name of an instruction (R84). The operands are the fields of R71 at their widths. -/

namespace Sys2Proof

/-- The 33 instructions of R80. `x`, `y` are register numbers, `n` a count, `nn` an 8-bit and `nnn` a 12-bit immediate
(R73). The `y` of `8XY6` and `8XYE` is decoded and not used; it is kept so that the word can be recovered. -/
inductive Instr where
  /-- CLS, R150 -/
  | op00E0
  /-- RET, R100 -/
  | op00EE
  /-- JP NNN, R101 -/
  | op1NNN (nnn : Addr)
  /-- CALL NNN, R102 -/
  | op2NNN (nnn : Addr)
  /-- SE Vx, NN, R110 -/
  | op3XNN (x : Nibble) (nn : Byte)
  /-- SNE Vx, NN, R111 -/
  | op4XNN (x : Nibble) (nn : Byte)
  /-- SE Vx, Vy, R112 -/
  | op5XY0 (x y : Nibble)
  /-- LD Vx, NN, R120 -/
  | op6XNN (x : Nibble) (nn : Byte)
  /-- ADD Vx, NN, R121 -/
  | op7XNN (x : Nibble) (nn : Byte)
  /-- LD Vx, Vy, R122 -/
  | op8XY0 (x y : Nibble)
  /-- OR Vx, Vy, R123 -/
  | op8XY1 (x y : Nibble)
  /-- AND Vx, Vy, R124 -/
  | op8XY2 (x y : Nibble)
  /-- XOR Vx, Vy, R125 -/
  | op8XY3 (x y : Nibble)
  /-- ADD Vx, Vy, R126 -/
  | op8XY4 (x y : Nibble)
  /-- SUB Vx, Vy, R127 -/
  | op8XY5 (x y : Nibble)
  /-- SHR Vx, R128 -/
  | op8XY6 (x y : Nibble)
  /-- SUBN Vx, Vy, R129 -/
  | op8XY7 (x y : Nibble)
  /-- SHL Vx, R130 -/
  | op8XYE (x y : Nibble)
  /-- SNE Vx, Vy, R113 -/
  | op9XY0 (x y : Nibble)
  /-- LD I, NNN, R140 -/
  | opANNN (nnn : Addr)
  /-- JP V0, NNN, R103 -/
  | opBNNN (nnn : Addr)
  /-- RND Vx, NN, R151 -/
  | opCXNN (x : Nibble) (nn : Byte)
  /-- DRW Vx, Vy, N, R152 -/
  | opDXYN (x y n : Nibble)
  /-- SKP Vx, R153 -/
  | opEX9E (x : Nibble)
  /-- SKNP Vx, R154 -/
  | opEXA1 (x : Nibble)
  /-- LD Vx, DT, R155 -/
  | opFX07 (x : Nibble)
  /-- LD DT, Vx, R156 -/
  | opFX15 (x : Nibble)
  /-- LD ST, Vx, R157 -/
  | opFX18 (x : Nibble)
  /-- ADD I, Vx, R141 -/
  | opFX1E (x : Nibble)
  /-- LD F, Vx, R142 -/
  | opFX29 (x : Nibble)
  /-- LD B, Vx, R143 -/
  | opFX33 (x : Nibble)
  /-- LD [I], Vx, R144 -/
  | opFX55 (x : Nibble)
  /-- LD Vx, [I], R145 -/
  | opFX65 (x : Nibble)
  deriving DecidableEq, Repr

end Sys2Proof
end

