-- ==== Sys2Proof/Decode.lean ====
section
/-! DEFINITION. The decoder and the encoder (30_encoding.md R70 to R86), and the opcode map R80 as a table of rows. -/

namespace Sys2Proof

/-- R53, R70: the word of two consecutive bytes, the byte at the lower address high. -/
def wordOfBytes (hi lo : Byte) : Word := hi ++ lo

/-- R71: the operation class, `w[15:12]`. -/
def fieldClass (w : Word) : Nibble := w.extractLsb' 12 4
/-- R71: the field X, `w[11:8]`. -/
def fieldX (w : Word) : Nibble := w.extractLsb' 8 4
/-- R71: the field Y, `w[7:4]`. -/
def fieldY (w : Word) : Nibble := w.extractLsb' 4 4
/-- R71: the field N, `w[3:0]`. -/
def fieldN (w : Word) : Nibble := w.extractLsb' 0 4
/-- R71: the field NN, `w[7:0]`. -/
def fieldNN (w : Word) : Byte := w.extractLsb' 0 8
/-- R71: the field NNN, `w[11:0]`. -/
def fieldNNN (w : Word) : Addr := w.extractLsb' 0 12

/-- Why a word or a list of bytes is no instruction; the classes are those of the table of R81. -/
inductive Reject where
  /-- class 0, neither 00E0 nor 00EE (R75) -/
  | invalidClass0
  /-- class 5 with N not 0 (R79) -/
  | invalidClass5
  /-- class 8 with N in 8, 9, A, B, C, D, F (R76) -/
  | invalidClass8
  /-- class 9 with N not 0 (R79) -/
  | invalidClass9
  /-- class E with NN neither 9E nor A1 (R77) -/
  | invalidClassE
  /-- class F with NN of no row (R78) -/
  | invalidClassF
  /-- fewer than two bytes: no complete word exists (R53) -/
  | truncated
  deriving DecidableEq, Repr

/-- R75: class 0 is decided on the whole word. -/
def decodeClass0 (w : Word) : Except Reject Instr :=
  if w = 0x00E0#16 then .ok .op00E0
  else if w = 0x00EE#16 then .ok .op00EE
  else .error .invalidClass0

/-- R76: class 8 is decided on N. -/
def decodeClass8 (w : Word) : Except Reject Instr :=
  match (fieldN w).toNat with
  | 0x0 => .ok (.op8XY0 (fieldX w) (fieldY w))
  | 0x1 => .ok (.op8XY1 (fieldX w) (fieldY w))
  | 0x2 => .ok (.op8XY2 (fieldX w) (fieldY w))
  | 0x3 => .ok (.op8XY3 (fieldX w) (fieldY w))
  | 0x4 => .ok (.op8XY4 (fieldX w) (fieldY w))
  | 0x5 => .ok (.op8XY5 (fieldX w) (fieldY w))
  | 0x6 => .ok (.op8XY6 (fieldX w) (fieldY w))
  | 0x7 => .ok (.op8XY7 (fieldX w) (fieldY w))
  | 0xE => .ok (.op8XYE (fieldX w) (fieldY w))
  | _ => .error .invalidClass8

/-- R77: class E is decided on NN. -/
def decodeClassE (w : Word) : Except Reject Instr :=
  match (fieldNN w).toNat with
  | 0x9E => .ok (.opEX9E (fieldX w))
  | 0xA1 => .ok (.opEXA1 (fieldX w))
  | _ => .error .invalidClassE

/-- R78: class F is decided on NN. -/
def decodeClassF (w : Word) : Except Reject Instr :=
  match (fieldNN w).toNat with
  | 0x07 => .ok (.opFX07 (fieldX w))
  | 0x15 => .ok (.opFX15 (fieldX w))
  | 0x18 => .ok (.opFX18 (fieldX w))
  | 0x1E => .ok (.opFX1E (fieldX w))
  | 0x29 => .ok (.opFX29 (fieldX w))
  | 0x33 => .ok (.opFX33 (fieldX w))
  | 0x55 => .ok (.opFX55 (fieldX w))
  | 0x65 => .ok (.opFX65 (fieldX w))
  | _ => .error .invalidClassF

/-- R74 to R81: the instruction of a word, or the reason it has none. The sixteenth class is the last arm. -/
def decode (w : Word) : Except Reject Instr :=
  match (fieldClass w).toNat with
  | 0x0 => decodeClass0 w
  | 0x1 => .ok (.op1NNN (fieldNNN w))
  | 0x2 => .ok (.op2NNN (fieldNNN w))
  | 0x3 => .ok (.op3XNN (fieldX w) (fieldNN w))
  | 0x4 => .ok (.op4XNN (fieldX w) (fieldNN w))
  | 0x5 => if fieldN w = 0#4 then .ok (.op5XY0 (fieldX w) (fieldY w)) else .error .invalidClass5
  | 0x6 => .ok (.op6XNN (fieldX w) (fieldNN w))
  | 0x7 => .ok (.op7XNN (fieldX w) (fieldNN w))
  | 0x8 => decodeClass8 w
  | 0x9 => if fieldN w = 0#4 then .ok (.op9XY0 (fieldX w) (fieldY w)) else .error .invalidClass9
  | 0xA => .ok (.opANNN (fieldNNN w))
  | 0xB => .ok (.opBNNN (fieldNNN w))
  | 0xC => .ok (.opCXNN (fieldX w) (fieldNN w))
  | 0xD => .ok (.opDXYN (fieldX w) (fieldY w) (fieldN w))
  | 0xE => decodeClassE w
  | _ => decodeClassF w

/-- R70, R74: the decoder on a list of bytes, total: the instruction of the first two bytes and the bytes after them. -/
def decodeBytes : List Byte → Except Reject (Instr × List Byte)
  | hi :: lo :: rest =>
    match decode (wordOfBytes hi lo) with
    | .ok i => .ok (i, rest)
    | .error r => .error r
  | [_] => .error .truncated
  | [] => .error .truncated

/-- The word of an instruction, nibble by nibble as its pattern in R80 is written (R5, R86 (e)). -/
def encode : Instr → Word
  | .op00E0 => 0x00E0#16
  | .op00EE => 0x00EE#16
  | .op1NNN nnn => 0x1#4 ++ nnn
  | .op2NNN nnn => 0x2#4 ++ nnn
  | .op3XNN x nn => 0x3#4 ++ x ++ nn
  | .op4XNN x nn => 0x4#4 ++ x ++ nn
  | .op5XY0 x y => 0x5#4 ++ x ++ y ++ 0x0#4
  | .op6XNN x nn => 0x6#4 ++ x ++ nn
  | .op7XNN x nn => 0x7#4 ++ x ++ nn
  | .op8XY0 x y => 0x8#4 ++ x ++ y ++ 0x0#4
  | .op8XY1 x y => 0x8#4 ++ x ++ y ++ 0x1#4
  | .op8XY2 x y => 0x8#4 ++ x ++ y ++ 0x2#4
  | .op8XY3 x y => 0x8#4 ++ x ++ y ++ 0x3#4
  | .op8XY4 x y => 0x8#4 ++ x ++ y ++ 0x4#4
  | .op8XY5 x y => 0x8#4 ++ x ++ y ++ 0x5#4
  | .op8XY6 x y => 0x8#4 ++ x ++ y ++ 0x6#4
  | .op8XY7 x y => 0x8#4 ++ x ++ y ++ 0x7#4
  | .op8XYE x y => 0x8#4 ++ x ++ y ++ 0xE#4
  | .op9XY0 x y => 0x9#4 ++ x ++ y ++ 0x0#4
  | .opANNN nnn => 0xA#4 ++ nnn
  | .opBNNN nnn => 0xB#4 ++ nnn
  | .opCXNN x nn => 0xC#4 ++ x ++ nn
  | .opDXYN x y n => 0xD#4 ++ x ++ y ++ n
  | .opEX9E x => 0xE#4 ++ x ++ 0x9E#8
  | .opEXA1 x => 0xE#4 ++ x ++ 0xA1#8
  | .opFX07 x => 0xF#4 ++ x ++ 0x07#8
  | .opFX15 x => 0xF#4 ++ x ++ 0x15#8
  | .opFX18 x => 0xF#4 ++ x ++ 0x18#8
  | .opFX1E x => 0xF#4 ++ x ++ 0x1E#8
  | .opFX29 x => 0xF#4 ++ x ++ 0x29#8
  | .opFX33 x => 0xF#4 ++ x ++ 0x33#8
  | .opFX55 x => 0xF#4 ++ x ++ 0x55#8
  | .opFX65 x => 0xF#4 ++ x ++ 0x65#8

/-- A row of the opcode map R80: a word `w` selects it when `w &&& mask = value`. -/
structure Row where
  pattern : String
  value : Word
  mask : Word
  deriving DecidableEq, Repr

/-- R80: the rows in the order of their column `#`. -/
def opcodeRows : List Row :=
  [⟨"00E0", 0x00E0, 0xFFFF⟩, ⟨"00EE", 0x00EE, 0xFFFF⟩, ⟨"1NNN", 0x1000, 0xF000⟩, ⟨"2NNN", 0x2000, 0xF000⟩,
   ⟨"3XNN", 0x3000, 0xF000⟩, ⟨"4XNN", 0x4000, 0xF000⟩, ⟨"5XY0", 0x5000, 0xF00F⟩, ⟨"6XNN", 0x6000, 0xF000⟩,
   ⟨"7XNN", 0x7000, 0xF000⟩] ++
  [⟨"8XY0", 0x8000, 0xF00F⟩, ⟨"8XY1", 0x8001, 0xF00F⟩, ⟨"8XY2", 0x8002, 0xF00F⟩, ⟨"8XY3", 0x8003, 0xF00F⟩,
   ⟨"8XY4", 0x8004, 0xF00F⟩, ⟨"8XY5", 0x8005, 0xF00F⟩, ⟨"8XY6", 0x8006, 0xF00F⟩, ⟨"8XY7", 0x8007, 0xF00F⟩,
   ⟨"8XYE", 0x800E, 0xF00F⟩] ++
  [⟨"9XY0", 0x9000, 0xF00F⟩, ⟨"ANNN", 0xA000, 0xF000⟩, ⟨"BNNN", 0xB000, 0xF000⟩, ⟨"CXNN", 0xC000, 0xF000⟩,
   ⟨"DXYN", 0xD000, 0xF000⟩, ⟨"EX9E", 0xE09E, 0xF0FF⟩, ⟨"EXA1", 0xE0A1, 0xF0FF⟩] ++
  [⟨"FX07", 0xF007, 0xF0FF⟩, ⟨"FX15", 0xF015, 0xF0FF⟩, ⟨"FX18", 0xF018, 0xF0FF⟩, ⟨"FX1E", 0xF01E, 0xF0FF⟩,
   ⟨"FX29", 0xF029, 0xF0FF⟩, ⟨"FX33", 0xF033, 0xF0FF⟩, ⟨"FX55", 0xF055, 0xF0FF⟩, ⟨"FX65", 0xF065, 0xF0FF⟩]

/-- The column `#` of an instruction's row in R80. -/
def Instr.rowNumber : Instr → Nat
  | .op00E0 => 1
  | .op00EE => 2
  | .op1NNN _ => 3
  | .op2NNN _ => 4
  | .op3XNN _ _ => 5
  | .op4XNN _ _ => 6
  | .op5XY0 _ _ => 7
  | .op6XNN _ _ => 8
  | .op7XNN _ _ => 9
  | .op8XY0 _ _ => 10
  | .op8XY1 _ _ => 11
  | .op8XY2 _ _ => 12
  | .op8XY3 _ _ => 13
  | .op8XY4 _ _ => 14
  | .op8XY5 _ _ => 15
  | .op8XY6 _ _ => 16
  | .op8XY7 _ _ => 17
  | .op8XYE _ _ => 18
  | .op9XY0 _ _ => 19
  | .opANNN _ => 20
  | .opBNNN _ => 21
  | .opCXNN _ _ => 22
  | .opDXYN _ _ _ => 23
  | .opEX9E _ => 24
  | .opEXA1 _ => 25
  | .opFX07 _ => 26
  | .opFX15 _ => 27
  | .opFX18 _ => 28
  | .opFX1E _ => 29
  | .opFX29 _ => 30
  | .opFX33 _ => 31
  | .opFX55 _ => 32
  | .opFX65 _ => 33

/-- The bytes of the table's number `w` as the hardware stores them: the word's high byte first (R53); bits of `w` from
`nbits` up are not the row's and count as 0 (log 29). -/
def tableBytes (nbits w : Nat) : List Byte :=
  let v := w % 2 ^ nbits
  [BitVec.ofNat 8 (v / 256), BitVec.ofNat 8 v]

/-- The instruction the decoder reads from a table word: one 16-bit word, bit 0 its least significant bit (R5, R70). -/
def decodeTableWord (nbits w : Nat) : Option Instr :=
  match decodeBytes (tableBytes nbits w) with
  | .ok (i, _) => some i
  | .error _ => none

end Sys2Proof
end

