-- ==== Sys2Proof/Config.lean ====
section
/-! DEFINITION. What the source fixes as numbers, the open parameters a model is a function of (00_scope.md R4,
93_implementation_defined.md section 2), and the free values: constants without a body, of which no proof can know a value. -/

namespace Sys2Proof.Config

/-- Bytes of memory, 2^12 (R4, R50; D1). -/
def memSize : Nat := 4096

/-- Capacity of the call stack (R4, R25). -/
def stackDepth : Nat := 16

/-- The open parameters (R4): LOAD_ADDR, FontAddr for the sixteen digits, and FONT_DATA. They are held in State and no step
changes them, so a statement about every state is a statement about every value of them (log 16). -/
structure Params where
  /-- LOAD_ADDR: where the program image is placed and where `pc` starts (R34, R58; D2). -/
  loadAddr : Addr
  /-- FontAddr of the digits 0..15 (R142; D12). -/
  glyphAddr : Vector Addr 16
  /-- FONT_DATA: the glyph bytes of the digits 0..15 (R202; D12). -/
  glyphs : Vector (List Byte) 16
  deriving DecidableEq, Repr

/-- FontAddr above digit 0xF: "the value depends on `d` alone" and nothing else is known of it (R142, U3; log 3). -/
opaque fontAddrBeyond : Byte → Addr

/-- The random byte of the draw numbered by the argument, where no answer is queued (R151, U6; log 9). -/
opaque freeRandom : Nat → Byte

/-- The keypad's answer for a key index at the draw numbered by the first argument, where no answer is queued
(R153, U4; log 10). -/
opaque freePressed : Nat → Byte → Bool

/-- The display's collision answer of a draw, where no answer is queued (R152, U5; log 11). -/
opaque freeCollided : Nat → Bool

/-- How many times the environment decrements the delay timer before a step, where no number is queued (R31, R182, U7;
log 12). -/
opaque freeDelayTicks : Nat → Nat

/-- The same for the sound timer: R31 lets either timer be decremented any number of times (log 12). -/
opaque freeSoundTicks : Nat → Nat

/-- What FAULT_WORD holds after a fetch fault, where no complete word exists (R174, U14; log 8). -/
opaque freeFaultWord : Nat → Word

end Sys2Proof.Config
end

