-- ==== Sys2Proof/Machine/Memory.lean ====
section
/-! DEFINITION. The memory M (10_state.md R27, 20_memory.md R50): a list of cells in one canonical form, what an unlisted
address reads as, and the read and write of one byte. The bounds check of R51 and R52 is in Machine/Ops.lean. -/

namespace Sys2Proof.Machine

open Sys2Proof

/-- FONT_DATA of the family, 93_implementation_defined.md G3. PRESUMED (log 2): the spec leaves the bytes open. -/
def conventionalGlyphs : Vector (List Byte) 16 :=
  #v[[0xF0, 0x90, 0x90, 0x90, 0xF0], [0x20, 0x60, 0x20, 0x20, 0x70], [0xF0, 0x10, 0xF0, 0x80, 0xF0],
     [0xF0, 0x10, 0xF0, 0x10, 0xF0], [0x90, 0x90, 0xF0, 0x10, 0x10], [0xF0, 0x80, 0xF0, 0x10, 0xF0],
     [0xF0, 0x80, 0xF0, 0x90, 0xF0], [0xF0, 0x10, 0x20, 0x40, 0x40], [0xF0, 0x90, 0xF0, 0x90, 0xF0],
     [0xF0, 0x90, 0xF0, 0x10, 0xF0], [0xF0, 0x90, 0xF0, 0x90, 0x90], [0xE0, 0x90, 0xE0, 0x90, 0xE0],
     [0xF0, 0x80, 0x80, 0x80, 0xF0], [0xE0, 0x90, 0x90, 0x90, 0xE0], [0xF0, 0x80, 0xF0, 0x80, 0xF0],
     [0xF0, 0x80, 0xF0, 0x80, 0x80]]

/-- FontAddr of the family for the digits 0..15: FONT_BASE + 5 * d with FONT_BASE = 0 (R4, G3). PRESUMED (log 2). -/
def conventionalGlyphAddr : Vector Addr 16 :=
  #v[0, 5, 10, 15, 20, 25, 30, 35, 40, 45, 50, 55, 60, 65, 70, 75]

/-- The parameters of the machine that `State.reset` is: the family's values (R4, 93 section 2). PRESUMED (log 1, 2). -/
def conventionalParams : Config.Params where
  loadAddr := 0x200
  glyphAddr := conventionalGlyphAddr
  glyphs := conventionalGlyphs

/-- The sixteen glyphs one after the other, as they lie from address 0 under the family's FontAddr. -/
def conventionalFont : List Byte := conventionalGlyphs.toList.flatten

/-- Memory as its listed cells. The list and its canonical form are the model's own: DESIGN CHOICE (log 33). -/
abbrev Memory := List Host.Cell

/-- What an unlisted address reads as: the reset contents, font bytes and 0x00 elsewhere (R34, R202; log 2, log 4). -/
def Memory.unlisted (a : Nat) : Byte :=
  if a < conventionalFont.length then conventionalFont.getD a 0 else 0

/-- The byte at an address (R57: the last value written, or the initial value). -/
def Memory.read : Memory → Nat → Byte
  | [], a => Memory.unlisted a
  | (k, b) :: m, a => if k = a then b else Memory.read m a

/-- Put a byte in front, unless the address would read as that byte without being listed. -/
def Memory.cons (a : Nat) (b : Byte) (m : Memory) : Memory :=
  if b = Memory.unlisted a then m else (a, b) :: m

/-- `M[a] <- b` (R52: "no other byte changes"), keeping the canonical form. -/
def Memory.write : Memory → Nat → Byte → Memory
  | [], a, b => Memory.cons a b []
  | (k, c) :: m, a, b =>
    if a < k then Memory.cons a b ((k, c) :: m)
    else if a = k then Memory.cons a b m
    else (k, c) :: Memory.write m a b

/-- Addresses strictly rise from `lo` on, lie in memory, and no entry equals what its address reads as unlisted. -/
def Memory.wfFrom (lo : Nat) : Memory → Bool
  | [] => true
  | (k, b) :: m => lo ≤ k && k < Config.memSize && b != Memory.unlisted k && Memory.wfFrom (k + 1) m

/-- The canonical form: equal memories are equal lists. -/
def Memory.wf (m : Memory) : Bool := Memory.wfFrom 0 m

/-- Copy bytes to ascending addresses from `a` on, up to the end of memory: the font and the image at initialisation
(R202, R203). Bytes beyond the end are dropped (log 24); the checks of WellFormed.lean exclude them. -/
def Memory.place : Memory → Nat → List Byte → Memory
  | m, _, [] => m
  | m, a, b :: bs => if a < Config.memSize then Memory.place (Memory.write m a b) (a + 1) bs else m

/-- R202 (1): every byte 0x00. Outside the family's font an unlisted address reads as 0x00 already. -/
def Memory.zeroed : Memory := Memory.place [] 0 (List.replicate conventionalFont.length 0)

/-- R202 (2): the glyphs placed one digit after the other, each a pair of its address and its bytes. Which bytes stay where two
glyphs overlap, R34, R202 and D12 do not say: that the later digit's stay is a DESIGN CHOICE (log 32). -/
def Memory.placeGlyphs : Memory → List (Addr × List Byte) → Memory
  | m, [] => m
  | m, (a, bs) :: rest => Memory.placeGlyphs (Memory.place m a.toNat bs) rest

/-- R202 (1) and (2): memory after RESET under the parameters `p`: zeroes, then the font. -/
def Memory.initial (p : Config.Params) : Memory :=
  Memory.placeGlyphs Memory.zeroed (p.glyphAddr.toList.zip p.glyphs.toList)

end Sys2Proof.Machine
end

