-- ==== Sys2Proof/Machine/State.lean ====
section
/-! DEFINITION. Everything the spec gives the machine (10_state.md R20 to R35), as plain data, and the state after reset. -/

namespace Sys2Proof.Machine

open Sys2Proof

/-- The value of FAULT (R28, R170). -/
inductive FaultKind where
  /-- no fault -/
  | none
  /-- a fetched word matches no row (R171) -/
  | decodeError
  /-- 00EE with an empty stack (R172) -/
  | stackUnderflow
  /-- 2NNN with a full stack (R173) -/
  | stackOverflow
  /-- a computed address is no memory address (R174) -/
  | outOfBounds
  deriving DecidableEq, Repr

/-- The fault report of R178: what the latch holds. -/
structure FaultReport where
  kind : FaultKind
  pc : Addr
  word : Word
  deriving DecidableEq, Repr

/-- One transaction on a port of R33, with what was sent and what was answered. -/
inductive PortEvent where
  /-- `Display.clear()` (R150) -/
  | clear
  /-- `Display.draw_sprite(x, y, bytes) -> collided` (R152) -/
  | drawSprite (x y : Byte) (bytes : List Byte) (collided : Bool)
  /-- `Keypad.is_pressed(k) -> pressed` (R153, R154) -/
  | isPressed (k : Byte) (pressed : Bool)
  /-- `Timer.get_delay() -> b` (R155) -/
  | getDelay (b : Byte)
  /-- `Timer.set_delay(b)` (R156) -/
  | setDelay (b : Byte)
  /-- `Timer.set_sound(b)` (R157) -/
  | setSound (b : Byte)
  /-- `Rng.next() -> b` (R151) -/
  | randomByte (b : Byte)
  deriving DecidableEq, Repr

/-- How many times the environment decrements each timer between two steps: "either timer any number of times" (R31). The
move `tick` of R182, made n times, is the case of two equal numbers. -/
structure Ticks where
  /-- decrements of DT -/
  delay : Nat
  /-- decrements of ST -/
  sound : Nat
  deriving DecidableEq, Repr

/-- The environment as the core reaches it through its ports (R10, R31, R32): the two timers, the answers still to come,
and the transactions made. -/
structure Env where
  /-- DT, the delay timer (R31) -/
  dt : Byte
  /-- ST, the sound timer (R31) -/
  st : Byte
  /-- answers of `Rng.next` still to come; free when empty (R151, log 9) -/
  randoms : List Byte
  /-- answers of `Keypad.is_pressed` still to come; free when empty (R153, log 10) -/
  presses : List Bool
  /-- answers of `Display.draw_sprite` still to come; free when empty (R152, log 11) -/
  collisions : List Bool
  /-- decrements of the two timers before the steps to come; free when empty (R31, R182, log 12) -/
  ticks : List Ticks
  /-- the port transactions made, oldest first (R33, R158, log 13) -/
  trace : List PortEvent
  deriving DecidableEq, Repr

/-- The state. Core registers first, then the open parameters, the environment, and the counter of free values. -/
structure State where
  /-- V[0..15], V[0xF] the flag register VF (R20, R21) -/
  v : Vector Byte 16
  /-- the program counter (R22) -/
  pc : Addr
  /-- the index register I (R24) -/
  i : Addr
  /-- S[0..15] (R25) -/
  stack : Vector Addr 16
  /-- SP, the number of stack entries in use, 0..16 (R25) -/
  sp : Fin 17
  /-- M (R27) -/
  mem : Memory
  /-- FAULT (R28) -/
  fault : FaultKind
  /-- FAULT_PC (R28) -/
  faultPc : Addr
  /-- FAULT_WORD (R28) -/
  faultWord : Word
  /-- LOAD_ADDR, FontAddr, FONT_DATA (R4); no step changes them -/
  params : Config.Params
  /-- the environment (R12, R31, R32) -/
  env : Env
  /-- how many free values have been taken; the model's own (log 14) -/
  draws : Nat
  deriving DecidableEq, Repr

/-- Why a step has no successor. -/
inductive Fault where
  /-- Raised by `step` alone, when the core is halted (FAULT is not none): the STEP request changes no state and answers
  `fault` again with the same report (R208, R180). Safe: the spec itself gives a faulted state no successor. -/
  | halted (report : FaultReport)
  deriving DecidableEq, Repr

/-- Why an instruction has no meaning. -/
inductive Refusal where
  /-- Raised by an arm of `exec` for an instruction without a meaning. Safe: no arm does. -/
  | notModelled (mnemonic : String)
  deriving DecidableEq, Repr

/-- The outcome of an instruction or a step. -/
abbrev Result := Host.Outcome State Fault Refusal

/-- An environment with both timers at 0, nothing queued and no transaction made. R34 leaves the environment's state to the
environment: DESIGN CHOICE (log 6, 13, 15). -/
def Env.quiet : Env where
  dt := 0
  st := 0
  randoms := []
  presses := []
  collisions := []
  ticks := []
  trace := []

/-- The machine right after reset (R34, R200) with the family's parameters (log 1, 2) and a quiet environment: no image is
loaded, and no memory byte differs from its reset contents. -/
def State.reset : State where
  v := Vector.replicate 16 0
  pc := conventionalParams.loadAddr
  i := 0
  stack := Vector.replicate 16 0
  sp := 0
  mem := []
  fault := .none
  faultPc := 0
  faultWord := 0
  params := conventionalParams
  env := Env.quiet
  draws := 0

end Sys2Proof.Machine
end

