-- ==== Sys2Proof/Machine/Ops.lean ====
section
/-! DEFINITION. The named operations on the core's state: memory, `pc`, the call stack, and the taking of a fault. Everything
else reads and writes the state through these and those of Operands.lean and Ports.lean. -/

namespace Sys2Proof.Machine

open Sys2Proof

/-! ### Faults (60_exceptions.md R178 to R180) -/

/-- The numeric code of FAULT (R170; the numbers are the spec's decision D9). -/
def FaultKind.code : FaultKind → Nat
  | .none => 0
  | .decodeError => 1
  | .stackUnderflow => 2
  | .stackOverflow => 3
  | .outOfBounds => 4

/-- The core is halted: FAULT is not none (R178, R208). -/
def State.halted (s : State) : Bool := s.fault != .none

/-- The report of the latch (R178). -/
def State.report (s : State) : FaultReport := ⟨s.fault, s.faultPc, s.faultWord⟩

/-- FAULT_WORD is valid when a fault was raised after a complete fetch (R28): a fetch faults exactly at `pc` = 0xFFF, where
no other fault can arise (R174). -/
def State.faultWordValid (s : State) : Bool := s.halted && s.faultPc != 0xFFF

/-- `raise <Fault>(pc, w)` (R9, R178): the latch is written from `pc` and the instruction's word, and nothing else changes:
what the instruction wrote before stays, and `pc` still holds its address (R179). There is no return from it (R180). -/
def State.raise (k : FaultKind) (w : Word) (s : State) : State :=
  { s with fault := k, faultPc := s.pc, faultWord := w }

/-- `raise OutOfBounds(pc, -)` of a fetch (R174): no complete word exists, so what FAULT_WORD holds is a free value
(U14, log 8). -/
def State.raiseFetch (s : State) : State :=
  { s with
    fault := .outOfBounds
    faultPc := s.pc
    faultWord := Config.freeFaultWord s.draws
    draws := s.draws + 1 }

/-- What the STEP port answers (R33). -/
inductive StepAnswer where
  /-- the instruction completed -/
  | done
  /-- the core faulted, with its report -/
  | fault (report : FaultReport)
  deriving DecidableEq, Repr

/-- The answer of the step that led to this state (R178, R204). -/
def State.answer (s : State) : StepAnswer := if s.halted then .fault s.report else .done

/-! ### Memory (20_memory.md R51, R52, R66) -/

/-- `M[a]`, the byte at an address, without a bounds check: what a reader of the state sees. -/
def State.byte (s : State) (a : Nat) : Byte := s.mem.read a

/-- `MemRead(a, 1)` (R51); none where it raises OutOfBounds. -/
def State.memRead (s : State) (a : Nat) : Option Byte :=
  if a < Config.memSize then some (s.mem.read a) else none

/-- `MemRead(a, n)` (R51): the bytes in ascending order; with `n = 0` no access and no fault. -/
def State.memReadN (s : State) : Nat → Nat → Option (List Byte)
  | _, 0 => some []
  | a, n + 1 =>
    match s.memRead a, s.memReadN (a + 1) n with
    | some b, some bs => some (b :: bs)
    | _, _ => none

/-- `MemWrite(a, 1, b)` (R52); none where it raises OutOfBounds. -/
def State.memWrite (a : Nat) (b : Byte) (s : State) : Option State :=
  if a < Config.memSize then some { s with mem := s.mem.write a b } else none

/-- Bytes put at ascending addresses from `a` on, as far as memory reaches: the memory a store, LOAD and a test leave. -/
def State.placeBytes (a : Nat) (bs : List Byte) (s : State) : State := { s with mem := s.mem.place a bs }

/-- How far an instruction's own work came: done, or ended by a `raise` with the latch written (R9). -/
inductive Progress where
  | done (s : State)
  | raised (s : State)
  deriving DecidableEq, Repr

/-- What follows the work, unless a `raise` ended the instruction (R9: nothing after a `raise` is executed). -/
def Progress.andThen : Progress → (State → State) → State
  | .done s, next => next s
  | .raised s, _ => s

/-- `MemWrite(a, n, bytes)` (R52): ascending; at the first address out of range OutOfBounds is raised, and the bytes below
it stay written (R179). `w` is the instruction's word. -/
def State.storeBytes (w : Word) : Nat → List Byte → State → Progress
  | _, [], s => .done s
  | a, b :: bs, s =>
    match s.memWrite a b with
    | some s' => State.storeBytes w (a + 1) bs s'
    | none => .raised (s.raise .outOfBounds w)

/-! ### The program counter (10_state.md R22, R23; 20_memory.md R66 (c)) -/

/-- `pc <- t` with `t` a 12-bit value. -/
def State.jumpTo (t : Addr) (s : State) : State := { s with pc := t }

/-- `pc <- t` with `t` a natural number: above 0xFFF the assignment does not happen and OutOfBounds is raised (R7). -/
def State.setPc (t : Nat) (w : Word) (s : State) : State :=
  if t < Config.memSize then s.jumpTo (BitVec.ofNat 12 t) else s.raise .outOfBounds w

/-- `pc <- pc + 2`, the last action of the 23 sequential instructions (R23). -/
def State.advance (w : Word) (s : State) : State := s.setPc (s.pc.toNat + 2) w

/-- The skip of R114: `pc + 4` when the condition holds, else `pc + 2`. -/
def State.skipIf (cond : Bool) (w : Word) (s : State) : State :=
  s.setPc (if cond then s.pc.toNat + 4 else s.pc.toNat + 2) w

/-! ### The index register and the call stack (10_state.md R24 to R26) -/

/-- `I <- t` with `t` a 12-bit value. -/
def State.setI (t : Addr) (s : State) : State := { s with i := t }

/-- `push(v)` (R26); none where it raises StackOverflow. -/
def State.push (v : Addr) (s : State) : Option State :=
  if h : s.sp.val < Config.stackDepth then
    some { s with stack := s.stack.set s.sp.val v h, sp := ⟨s.sp.val + 1, Nat.succ_lt_succ h⟩ }
  else none

/-- `pop()` (R26): the newest entry; none where it raises StackUnderflow. The entry itself stays in the array. -/
def State.pop (s : State) : Option (Addr × State) :=
  if s.sp.val = 0 then none
  else
    some (s.stack[s.sp.val - 1]'(by have := s.sp.isLt; omega),
      { s with sp := ⟨s.sp.val - 1, by have := s.sp.isLt; omega⟩ })

/-! ### Fetch (20_memory.md R53) -/

/-- The word at `pc`, high byte first, any parity (R55); none where the fetch raises OutOfBounds. -/
def State.fetch (s : State) : Option Word :=
  match s.memRead s.pc.toNat, s.memRead (s.pc.toNat + 1) with
  | some hi, some lo => some (wordOfBytes hi lo)
  | _, _ => none

end Sys2Proof.Machine
end

