-- ==== Sys2Proof/Machine/Operands.lean ====
section
/-! DEFINITION. The operand forms: a general register, the flag register, the register block V[0]..V[X], the effective
address I + k, the font lookup, the decimal digits. -/

namespace Sys2Proof.Machine

open Sys2Proof

/-- `V[r]` (R7, R20): all sixteen registers are read alike. -/
def State.readV (s : State) (r : Nibble) : Byte := s.v[r.toNat]

/-- `V[r] <- b` (R7, R20): all sixteen are written alike, the flag register included. -/
def State.writeV (r : Nibble) (b : Byte) (s : State) : State := { s with v := s.v.set r.toNat b }

/-- The number of the flag register VF (R21). -/
def flagReg : Nibble := 0xF

/-- The effective address `I + k`, a natural number without wrap (R146). -/
def State.dataAddr (s : State) (k : Nat) : Nat := s.i.toNat + k

/-- The values of V[0]..V[X], in ascending order: X + 1 bytes (R73, R144). -/
def State.blockValues (s : State) (x : Nibble) : List Byte :=
  (List.range (x.toNat + 1)).map fun k => s.readV (BitVec.ofNat 4 k)

/-- `for k ...: V[k] <- MemRead(I + k, 1)` (R145), `n` registers from number `k` on; at the first address out of range
OutOfBounds is raised, and the registers below it stay loaded (R179). -/
def State.loadBlock (w : Word) : Nat → Nat → State → Progress
  | 0, _, s => .done s
  | n + 1, k, s =>
    match s.memRead (s.dataAddr k) with
    | some b => State.loadBlock w n (k + 1) (s.writeV (BitVec.ofNat 4 k) b)
    | none => .raised (s.raise .outOfBounds w)

/-- `FontAddr(d)` (R142, D12): the table for the digits 0..15, an unknown function of the byte above (log 3). -/
def State.fontAddr (s : State) (d : Byte) : Addr :=
  if h : d.toNat < 16 then s.params.glyphAddr[d.toNat] else Config.fontAddrBeyond d

/-- The hundreds, tens and ones of a byte, each a byte 0..9 (R143). -/
def decimalDigits (a : Byte) : List Byte :=
  [BitVec.ofNat 8 (a.toNat / 100), BitVec.ofNat 8 (a.toNat / 10 % 10), BitVec.ofNat 8 (a.toNat % 10)]

end Sys2Proof.Machine
end

