-- ==== Sys2Proof/Machine/Alu.lean ====
section
/-! DEFINITION. Register load, arithmetic, logic, shift (42_alu.md R120 to R133). All operands are read before any write, and
the writes go in the order of the rule: in 8XY4 the result and then the flag, in the others the flag and then the result, so
that with X = 0xF the later write stays (R132). -/

namespace Sys2Proof.Machine

open Sys2Proof

/-- LD Vx, NN (R120). -/
def exec6XNN (x : Nibble) (nn : Byte) (s : State) : Result :=
  .next ((s.writeV x nn).advance (encode (.op6XNN x nn)))

/-- ADD Vx, NN (R121): wrapping, no flag. -/
def exec7XNN (x : Nibble) (nn : Byte) (s : State) : Result :=
  .next ((s.writeV x (trunc8 (exactSum (s.readV x) nn))).advance (encode (.op7XNN x nn)))

/-- LD Vx, Vy (R122). -/
def exec8XY0 (x y : Nibble) (s : State) : Result :=
  .next ((s.writeV x (s.readV y)).advance (encode (.op8XY0 x y)))

/-- OR Vx, Vy (R123): no flag. -/
def exec8XY1 (x y : Nibble) (s : State) : Result :=
  .next ((s.writeV x (s.readV x ||| s.readV y)).advance (encode (.op8XY1 x y)))

/-- AND Vx, Vy (R124): no flag. -/
def exec8XY2 (x y : Nibble) (s : State) : Result :=
  .next ((s.writeV x (s.readV x &&& s.readV y)).advance (encode (.op8XY2 x y)))

/-- XOR Vx, Vy (R125): no flag. -/
def exec8XY3 (x y : Nibble) (s : State) : Result :=
  .next ((s.writeV x (s.readV x ^^^ s.readV y)).advance (encode (.op8XY3 x y)))

/-- ADD Vx, Vy (R126): the result, then the carry. -/
def exec8XY4 (x y : Nibble) (s : State) : Result :=
  let a := s.readV x
  let b := s.readV y
  .next (((s.writeV x (trunc8 (exactSum a b))).writeV flagReg (carryFlag a b)).advance (encode (.op8XY4 x y)))

/-- SUB Vx, Vy (R127): the no-borrow flag, then the result. -/
def exec8XY5 (x y : Nibble) (s : State) : Result :=
  let a := s.readV x
  let b := s.readV y
  .next (((s.writeV flagReg (noBorrowFlag a b)).writeV x (trunc8 (exactDiff a b))).advance (encode (.op8XY5 x y)))

/-- SHR Vx (R128): the bit shifted out, then the result; `y` is ignored. -/
def exec8XY6 (x y : Nibble) (s : State) : Result :=
  let a := s.readV x
  .next (((s.writeV flagReg (lowBitFlag a)).writeV x (BitVec.ofNat 8 (a.toNat / 2))).advance (encode (.op8XY6 x y)))

/-- SUBN Vx, Vy (R129): the no-borrow flag, then the result of `V[Y] - V[X]`. -/
def exec8XY7 (x y : Nibble) (s : State) : Result :=
  let a := s.readV x
  let b := s.readV y
  .next (((s.writeV flagReg (noBorrowFlag b a)).writeV x (trunc8 (exactDiff b a))).advance (encode (.op8XY7 x y)))

/-- SHL Vx (R130): the bit shifted out, then the result; `y` is ignored. -/
def exec8XYE (x y : Nibble) (s : State) : Result :=
  let a := s.readV x
  .next (((s.writeV flagReg (highBitFlag a)).writeV x (trunc8 (a.toNat * 2))).advance (encode (.op8XYE x y)))

end Sys2Proof.Machine
end

