-- ==== Sys2Proof/Machine/Flow.lean ====
section
/-! DEFINITION. Control transfer (40_flow.md R100 to R104). No delay slot, no alignment of a target, and no check of what
stands there (R104). -/

namespace Sys2Proof.Machine

open Sys2Proof

/-- RET (R100): `pc <- pop()`, with no 2 added; StackUnderflow on an empty stack. -/
def exec00EE (s : State) : Result :=
  .next (match s.pop with
    | some (t, s') => s'.jumpTo t
    | none => s.raise .stackUnderflow (encode .op00EE))

/-- JP NNN (R101). -/
def exec1NNN (nnn : Addr) (s : State) : Result := .next (s.jumpTo nnn)

/-- CALL NNN (R102): the return address `pc + 2` is checked first (D10), then pushed. -/
def exec2NNN (nnn : Addr) (s : State) : Result :=
  .next (
    if s.pc.toNat + 2 < Config.memSize then
      match s.push (BitVec.ofNat 12 (s.pc.toNat + 2)) with
      | some s' => s'.jumpTo nnn
      | none => s.raise .stackOverflow (encode (.op2NNN nnn))
    else s.raise .outOfBounds (encode (.op2NNN nnn)))

/-- JP V0, NNN (R103): the sum is not truncated; above 0xFFF it raises OutOfBounds. -/
def execBNNN (nnn : Addr) (s : State) : Result :=
  .next (s.setPc (nnn.toNat + (s.readV 0).toNat) (encode (.opBNNN nnn)))

end Sys2Proof.Machine
end

