-- ==== Sys2Proof/Machine/Index.lean ====
section
/-! DEFINITION. The index register, loads and stores (43_index_memory.md R140 to R146). `I` is changed by ANNN, FX1E and FX29
alone (R11, R146). -/

namespace Sys2Proof.Machine

open Sys2Proof

/-- LD I, NNN (R140). -/
def execANNN (nnn : Addr) (s : State) : Result :=
  .next ((s.setI nnn).advance (encode (.opANNN nnn)))

/-- ADD I, Vx (R141): a sum above 0xFFF is not stored and raises OutOfBounds (D3). -/
def execFX1E (x : Nibble) (s : State) : Result :=
  .next (
    if s.dataAddr (s.readV x).toNat < Config.memSize then
      (s.setI (BitVec.ofNat 12 (s.dataAddr (s.readV x).toNat))).advance (encode (.opFX1E x))
    else s.raise .outOfBounds (encode (.opFX1E x)))

/-- LD F, Vx (R142): `I <- FontAddr(V[X])`, for every byte; no memory is read. -/
def execFX29 (x : Nibble) (s : State) : Result :=
  .next ((s.setI (s.fontAddr (s.readV x))).advance (encode (.opFX29 x)))

/-- LD B, Vx (R143): the three decimal digits at I, I+1, I+2. -/
def execFX33 (x : Nibble) (s : State) : Result :=
  .next ((s.storeBytes (encode (.opFX33 x)) (s.dataAddr 0) (decimalDigits (s.readV x))).andThen
    (State.advance (encode (.opFX33 x))))

/-- LD [I], Vx (R144): V[0]..V[X] stored from I on. -/
def execFX55 (x : Nibble) (s : State) : Result :=
  .next ((s.storeBytes (encode (.opFX55 x)) (s.dataAddr 0) (s.blockValues x)).andThen
    (State.advance (encode (.opFX55 x))))

/-- LD Vx, [I] (R145): V[0]..V[X] loaded from I on. -/
def execFX65 (x : Nibble) (s : State) : Result :=
  .next ((s.loadBlock (encode (.opFX65 x)) (x.toNat + 1) 0).andThen (State.advance (encode (.opFX65 x))))

end Sys2Proof.Machine
end

