-- ==== Sys2Proof/Machine/Ports.lean ====
section
/-! DEFINITION. The ports (10_state.md R33, 44_peripheral.md R158): one transaction each, recorded in the trace. An answer is
the next queued one, or a free value of its width where none is queued (R10: an input, never a computed value). -/

namespace Sys2Proof.Machine

open Sys2Proof

/-- Record a transaction (R33). -/
def State.emit (e : PortEvent) (s : State) : State :=
  { s with env := { s.env with trace := s.env.trace ++ [e] } }

/-! ### Answers of the environment -/

/-- The next answer of the random source, and the state without it (R151, log 9). -/
def State.takeRandom (s : State) : Byte × State :=
  match s.env.randoms with
  | b :: rest => (b, { s with env := { s.env with randoms := rest } })
  | [] => (Config.freeRandom s.draws, { s with draws := s.draws + 1 })

/-- The keypad's next answer for key index `k`, and the state without it (R153, log 10). -/
def State.takePressed (k : Byte) (s : State) : Bool × State :=
  match s.env.presses with
  | p :: rest => (p, { s with env := { s.env with presses := rest } })
  | [] => (Config.freePressed s.draws k, { s with draws := s.draws + 1 })

/-- The display's next collision answer, and the state without it (R152, log 11). -/
def State.takeCollided (s : State) : Bool × State :=
  match s.env.collisions with
  | c :: rest => (c, { s with env := { s.env with collisions := rest } })
  | [] => (Config.freeCollided s.draws, { s with draws := s.draws + 1 })

/-! ### Transactions -/

/-- `Rng.next() -> byte` (R151). -/
def State.rngNext (s : State) : Byte × State :=
  (s.takeRandom.1, s.takeRandom.2.emit (.randomByte s.takeRandom.1))

/-- `Keypad.is_pressed(k) -> pressed` (R153): the full byte is sent (D13). -/
def State.isPressed (k : Byte) (s : State) : Bool × State :=
  ((s.takePressed k).1, (s.takePressed k).2.emit (.isPressed k (s.takePressed k).1))

/-- `Display.draw_sprite(x, y, bytes) -> collided` (R152). -/
def State.drawSprite (x y : Byte) (bytes : List Byte) (s : State) : Bool × State :=
  (s.takeCollided.1, s.takeCollided.2.emit (.drawSprite x y bytes s.takeCollided.1))

/-- `Display.clear()` (R150). -/
def State.displayClear (s : State) : State := s.emit .clear

/-- `Timer.get_delay() -> b` (R155): DT, unchanged by the read. -/
def State.getDelay (s : State) : Byte × State := (s.env.dt, s.emit (.getDelay s.env.dt))

/-- `Timer.set_delay(b)` (R156): DT <- b. -/
def State.setDelay (b : Byte) (s : State) : State :=
  State.emit (.setDelay b) { s with env := { s.env with dt := b } }

/-- `Timer.set_sound(b)` (R157): ST <- b. -/
def State.setSound (b : Byte) (s : State) : State :=
  State.emit (.setSound b) { s with env := { s.env with st := b } }

/-! ### What the environment does between two steps (60_exceptions.md R182) -/

/-- One tick of a timer: one less, and zero stays zero (R182; the stop at zero is the spec's recommended model D15, log 12). -/
def tickTimer (b : Byte) : Byte := if b.toNat > 0 then b - 1 else 0

/-- `n` ticks of a timer. -/
def tickTimes : Nat → Byte → Byte
  | 0, b => b
  | n + 1, b => tickTimes n (tickTimer b)

/-- The environment decrements each timer its own number of times (R31). -/
def Env.tick (n : Ticks) (e : Env) : Env := { e with dt := tickTimes n.delay e.dt, st := tickTimes n.sound e.st }

/-- How many decrements of each timer come before this step, and the state without these numbers: any numbers, nothing bounds
them or ties one to the other (R31, R182, log 12). -/
def State.takeTicks (s : State) : Ticks × State :=
  match s.env.ticks with
  | n :: rest => (n, { s with env := { s.env with ticks := rest } })
  | [] => (⟨Config.freeDelayTicks s.draws, Config.freeSoundTicks s.draws⟩, { s with draws := s.draws + 1 })

/-- The environment's move between the last step and this one: it ticks, and touches nothing of the core (R12, R61). Its
keys, its display and its random source move by the answers they will give. -/
def State.betweenSteps (s : State) : State :=
  { s.takeTicks.2 with env := s.takeTicks.2.env.tick s.takeTicks.1 }

end Sys2Proof.Machine
end

