-- ==== Sys2Proof/Machine/Port.lean ====
section
/-! DEFINITION. The instructions that use a port (44_peripheral.md R150 to R158): exactly one transaction each. -/

namespace Sys2Proof.Machine

open Sys2Proof

/-- CLS (R150). -/
def exec00E0 (s : State) : Result := .next (s.displayClear.advance (encode .op00E0))

/-- RND Vx, NN (R151): the random source's answer, masked. -/
def execCXNN (x : Nibble) (nn : Byte) (s : State) : Result :=
  .next ((s.rngNext.2.writeV x (s.rngNext.1 &&& nn)).advance (encode (.opCXNN x nn)))

/-- DRW Vx, Vy, N (R152): coordinates and sprite bytes are read first; OutOfBounds comes before the transaction; VF gets the
display's answer. -/
def execDXYN (x y n : Nibble) (s : State) : Result :=
  .next (match s.memReadN (s.dataAddr 0) n.toNat with
    | some bytes =>
      let drawn := s.drawSprite (s.readV x) (s.readV y) bytes
      (drawn.2.writeV flagReg (flagByte drawn.1)).advance (encode (.opDXYN x y n))
    | none => s.raise .outOfBounds (encode (.opDXYN x y n)))

/-- SKP Vx (R153). -/
def execEX9E (x : Nibble) (s : State) : Result :=
  .next ((s.isPressed (s.readV x)).2.skipIf (s.isPressed (s.readV x)).1 (encode (.opEX9E x)))

/-- SKNP Vx (R154). -/
def execEXA1 (x : Nibble) (s : State) : Result :=
  .next ((s.isPressed (s.readV x)).2.skipIf (!(s.isPressed (s.readV x)).1) (encode (.opEXA1 x)))

/-- LD Vx, DT (R155). -/
def execFX07 (x : Nibble) (s : State) : Result :=
  .next ((s.getDelay.2.writeV x s.getDelay.1).advance (encode (.opFX07 x)))

/-- LD DT, Vx (R156). -/
def execFX15 (x : Nibble) (s : State) : Result :=
  .next ((s.setDelay (s.readV x)).advance (encode (.opFX15 x)))

/-- LD ST, Vx (R157). -/
def execFX18 (x : Nibble) (s : State) : Result :=
  .next ((s.setSound (s.readV x)).advance (encode (.opFX18 x)))

end Sys2Proof.Machine
end

