-- ==== Sys2Proof/Machine/Skip.lean ====
section
/-! DEFINITION. Conditional skips on registers (41_skip.md R110 to R114). The skipped word is not fetched (R114, D22). -/

namespace Sys2Proof.Machine

open Sys2Proof

/-- SE Vx, NN (R110). -/
def exec3XNN (x : Nibble) (nn : Byte) (s : State) : Result :=
  .next (s.skipIf (s.readV x == nn) (encode (.op3XNN x nn)))

/-- SNE Vx, NN (R111). -/
def exec4XNN (x : Nibble) (nn : Byte) (s : State) : Result :=
  .next (s.skipIf (s.readV x != nn) (encode (.op4XNN x nn)))

/-- SE Vx, Vy (R112). -/
def exec5XY0 (x y : Nibble) (s : State) : Result :=
  .next (s.skipIf (s.readV x == s.readV y) (encode (.op5XY0 x y)))

/-- SNE Vx, Vy (R113). -/
def exec9XY0 (x y : Nibble) (s : State) : Result :=
  .next (s.skipIf (s.readV x != s.readV y) (encode (.op9XY0 x y)))

end Sys2Proof.Machine
end

