-- ==== Sys2Proof/Machine/Step.lean ====
section
/-! DEFINITION. One step (30_encoding.md R74), and how a test places one instruction where the next step fetches it. -/

namespace Sys2Proof.Machine

open Sys2Proof

/-- Fetch, decode and execute one instruction of a core that is not halted (R74): a fetch fault comes first, then
DecodeError with the offending `pc` and word, then the instruction (R177). -/
def runOne (s : State) : Host.Outcome State Fault Refusal :=
  match s.fetch with
  | none => .next s.raiseFetch
  | some w =>
    match decode w with
    | .error _ => .next (s.raise .decodeError w)
    | .ok i => exec i s

/-- `step` (R74): a halted core does nothing and answers with the same report (R208); otherwise the environment has moved
since the last step (R12, R182), and one instruction runs or one fault is raised. A fault raised by this step is a next state
with the latch written, of which `State.answer` is the answer of the STEP port (R178, log 7). -/
def step (s : State) : Host.Outcome State Fault Refusal :=
  if s.halted then .fault (.halted s.report) else runOne s.betweenSteps

/-- `s` with the table word `w` stored at `pc`, where the next step fetches (R53), and the latch clear, without which no
fetch happens (R74; log 28). It stands for the load of a program from outside (R203; log 18). -/
def State.withFetchWord (s : State) (nbits w : Nat) : State :=
  { s.placeBytes s.pc.toNat (tableBytes nbits w) with fault := .none }

end Sys2Proof.Machine
end

