-- ==== Sys2Proof/WellFormed.lean ====
section
/-! DEFINITION. What may be ill-formed. An instruction cannot be: every value of `X`, `Y`, `N`, `NN`, `NNN` is legal
(30_encoding.md R73, R82) and the operand types carry their widths, so there is no check on `Instr`. What the spec does check
is what a run is launched with: the image against the memory (R188, R203) and the glyphs against the memory (R210 (a)). -/

namespace Sys2Proof

/-- R203, R188: an image is accepted when `LOAD_ADDR + len <= MEM_SIZE`; otherwise the load fails. -/
def imageFits (loadAddr : Addr) (image : List Byte) : Bool :=
  loadAddr.toNat + image.length ≤ Config.memSize

/-- R202, R210 (a): every glyph byte of every digit lies in memory, so that FontAddr(d) is "a Memory address holding its
sprite bytes". -/
def glyphsFit (p : Config.Params) : Bool :=
  (List.finRange 16).all fun d => (p.glyphAddr[d]).toNat + (p.glyphs[d]).length ≤ Config.memSize

/-- The launch premises of R210 (a) and (b) as one check. -/
def launchWellFormed (p : Config.Params) (image : List Byte) : Bool :=
  glyphsFit p && imageFits p.loadAddr image

end Sys2Proof
end

