-- ==== Sys2Proof/Machine/Boot.lean ====
section
/-! DEFINITION. The ports RESET and LOAD (70_reset_and_hazards.md R200 to R203, R210): how a run starts. They are the
environment's operations, not instructions. -/

namespace Sys2Proof.Machine

open Sys2Proof

/-- The reset state under any parameters and any environment (R34, R200, R202). FAULT_PC, FAULT_WORD and the stack entries
are unspecified there; 0 is a DESIGN CHOICE (log 5). -/
def State.resetWith (p : Config.Params) (e : Env) (draws : Nat) : State where
  v := Vector.replicate 16 0
  pc := p.loadAddr
  i := 0
  stack := Vector.replicate 16 0
  sp := 0
  mem := Memory.initial p
  fault := .none
  faultPc := 0
  faultWord := 0
  params := p
  env := e
  draws := draws

/-- RESET of a machine in any state, the halted one included (R180, R200): the environment is not touched. -/
def State.doReset (s : State) : State := State.resetWith s.params s.env s.draws

/-- LOAD (R203): the image is copied verbatim to LOAD_ADDR; none where the load fails (R188). It belongs before the first
step (R204, log 19). -/
def State.load (image : List Byte) (s : State) : Option State :=
  if imageFits s.params.loadAddr image then
    some (s.placeBytes s.params.loadAddr.toNat image)
  else none

/-- The state at the first STEP of a run (R210): reset, font, image. -/
def State.launch (p : Config.Params) (e : Env) (draws : Nat) (image : List Byte) : Option State :=
  (State.resetWith p e draws).load image

end Sys2Proof.Machine
end

