-- ==== Sys2Proof/Safety.lean ====
section
/-! DEFINITION. The terms claims are stated in: a good run, the invariant of a step, and what one state keeps of another. -/

namespace Sys2Proof.Machine

open Sys2Proof

/-- A good run of `k` steps: it has a final state, and the core is not halted there. A fault is never a good end (R205), and a
faulted state has no successor (R208). -/
def State.GoodRun (k : Nat) (s : State) : Prop :=
  ∃ t, Sys2Proof.core.run k s = .next t ∧ t.halted = false

/-- What every step keeps: memory in its canonical form, and a latch that tells the truth (R170 to R174, R178, R179). The
widths of R35 are in the types. -/
structure State.Inv (s : State) : Prop where
  memCanonical : s.mem.wf = true
  latchPc : s.halted = true → s.faultPc = s.pc
  latchDecode : s.fault = .decodeError → ∀ i, decode s.faultWord ≠ .ok i
  latchUnderflow : s.fault = .stackUnderflow → s.faultWord = 0x00EE ∧ s.sp.val = 0
  latchOverflow : s.fault = .stackOverflow → (∃ nnn, decode s.faultWord = .ok (.op2NNN nnn)) ∧ s.sp.val = 16
  latchBounds : s.fault = .outOfBounds → s.pc ≠ 0xFFF → ∃ i, decode s.faultWord = .ok i

/-! ### What `t` keeps of `s` -/

/-- Every register outside the list. -/
def KeepsRegs (changed : List Nibble) (s t : State) : Prop := ∀ r, r ∉ changed → t.readV r = s.readV r

/-- Every byte of memory outside the `n` addresses from `lo` on; all of memory for `n = 0`. -/
def KeepsBytes (lo n : Nat) (s t : State) : Prop := ∀ a, ¬ (lo ≤ a ∧ a < lo + n) → t.byte a = s.byte a

/-- Every byte of memory. -/
def KeepsMemory (s t : State) : Prop := ∀ a, t.byte a = s.byte a

/-- The stack entries and SP. -/
def KeepsStack (s t : State) : Prop := t.stack = s.stack ∧ t.sp = s.sp

/-- The fault latch. -/
def KeepsLatch (s t : State) : Prop := t.fault = s.fault ∧ t.faultPc = s.faultPc ∧ t.faultWord = s.faultWord

/-- The environment and the counter of free values. -/
def KeepsEnv (s t : State) : Prop := t.env = s.env ∧ t.draws = s.draws

/-- Everything but `pc` and the listed registers. -/
def KeepsRest (changed : List Nibble) (s t : State) : Prop :=
  KeepsRegs changed s t ∧ t.i = s.i ∧ KeepsStack s t ∧ KeepsMemory s t ∧ KeepsLatch s t ∧
    t.params = s.params ∧ KeepsEnv s t

/-- Everything of the core but `pc` and the listed registers; the environment may differ. -/
def KeepsCore (changed : List Nibble) (s t : State) : Prop :=
  KeepsRegs changed s t ∧ t.i = s.i ∧ KeepsStack s t ∧ KeepsMemory s t ∧ KeepsLatch s t ∧ t.params = s.params

/-- `t` is `s` after `raise kind` with the word `w` and nothing else (R178, R179). -/
def RaisedFrom (kind : FaultKind) (w : Word) (s t : State) : Prop :=
  t.fault = kind ∧ t.faultPc = s.pc ∧ t.faultWord = w ∧ t.pc = s.pc ∧ KeepsRegs [] s t ∧ t.i = s.i ∧
    KeepsStack s t ∧ KeepsMemory s t ∧ t.params = s.params ∧ KeepsEnv s t

/-- Nothing a run can show differs: the stack entries above SP, and the report fields while no fault is latched, are the
unspecified rest (R25, R34: "unspecified; unobservable"). -/
def SameObservable (s t : State) : Prop :=
  t.v = s.v ∧ t.pc = s.pc ∧ t.i = s.i ∧ t.sp = s.sp ∧
    (∀ k : Fin 16, k.val < s.sp.val → t.stack[k] = s.stack[k]) ∧ t.mem = s.mem ∧ t.fault = s.fault ∧
    (s.halted = true → t.faultPc = s.faultPc ∧ t.faultWord = s.faultWord) ∧ t.params = s.params ∧
    t.env = s.env ∧ t.draws = s.draws

/-! ### What an instruction may change, read off the tables of the spec -/

/-- The 23 instructions that end in `pc <- pc + 2` (R23, R174). -/
def sequential : Instr → Bool
  | .op00EE | .op1NNN _ | .op2NNN _ | .opBNNN _ => false
  | .op3XNN _ _ | .op4XNN _ _ | .op5XY0 _ _ | .op9XY0 _ _ | .opEX9E _ | .opEXA1 _ => false
  | .op00E0 | .op6XNN _ _ | .op7XNN _ _ | .op8XY0 _ _ | .op8XY1 _ _ | .op8XY2 _ _ | .op8XY3 _ _ => true
  | .op8XY4 _ _ | .op8XY5 _ _ | .op8XY6 _ _ | .op8XY7 _ _ | .op8XYE _ _ | .opANNN _ | .opCXNN _ _ => true
  | .opDXYN _ _ _ | .opFX07 _ | .opFX15 _ | .opFX18 _ | .opFX1E _ | .opFX29 _ | .opFX33 _ => true
  | .opFX55 _ | .opFX65 _ => true

/-- The destination registers (the table of R20): V[X], VF of the flag-writing instructions and DXYN, V[0]..V[X] of FX65. -/
def destRegs : Instr → List Nibble
  | .op6XNN x _ | .op7XNN x _ | .op8XY0 x _ | .op8XY1 x _ | .op8XY2 x _ | .op8XY3 x _ | .opCXNN x _ | .opFX07 x => [x]
  | .op8XY4 x _ | .op8XY5 x _ | .op8XY6 x _ | .op8XY7 x _ | .op8XYE x _ => [x, 0xF]
  | .opDXYN _ _ _ => [0xF]
  | .opFX65 x => (List.range (x.toNat + 1)).map (BitVec.ofNat 4)
  | .op00E0 | .op00EE | .op1NNN _ | .op2NNN _ | .op3XNN _ _ | .op4XNN _ _ | .op5XY0 _ _ | .op9XY0 _ _ => []
  | .opANNN _ | .opBNNN _ | .opEX9E _ | .opEXA1 _ | .opFX15 _ | .opFX18 _ | .opFX1E _ | .opFX29 _ => []
  | .opFX33 _ | .opFX55 _ => []

/-- The instructions that write `I` (R11, R24). -/
def writesI : Instr → Prop := fun i => (∃ nnn, i = .opANNN nnn) ∨ (∃ x, i = .opFX1E x) ∨ (∃ x, i = .opFX29 x)

/-- Which instruction makes which transaction: the eight port instructions, each on its own port (R33, 44_peripheral.md). -/
def transacts (i : Instr) (e : PortEvent) : Prop :=
  (i = .op00E0 ∧ e = .clear) ∨
  (∃ x nn b, i = .opCXNN x nn ∧ e = .randomByte b) ∨
  (∃ x y n c₁ c₂ bytes c, i = .opDXYN x y n ∧ e = .drawSprite c₁ c₂ bytes c) ∨
  (∃ x k p, (i = .opEX9E x ∨ i = .opEXA1 x) ∧ e = .isPressed k p) ∨
  (∃ x b, i = .opFX07 x ∧ e = .getDelay b) ∨
  (∃ x b, i = .opFX15 x ∧ e = .setDelay b) ∨
  (∃ x b, i = .opFX18 x ∧ e = .setSound b)

/-- A DXYN of which a sprite byte lies beyond memory: the condition of its OutOfBounds (R152, R174). -/
def spriteBeyond (i : Instr) (s : State) : Prop :=
  ∃ x y n, i = .opDXYN x y n ∧ n ≠ 0 ∧ Config.memSize < s.dataAddr n.toNat

end Sys2Proof.Machine
end

