-- ==== Sys2Proof/Certificates/Slice0/Obligations.lean ====
section
/-! DEFINITION. The statements for the provers. A fault raised by a step is a NEXT state with the latch written (log 7), so a
completion says what the instruction's own effect is and that the latch is kept. Every statement holds for every value of the
open parameters, of the queued answers and of the free values. -/

open Sys2Proof Sys2Proof.Machine

/-! ### Decoding and encoding -/

/-- R71: the class and the five fields of every word are its bit slices, as unsigned numbers. -/
def Obligations.FieldsAreBitSlices : Prop :=
  ∀ w : Word, (fieldClass w).toNat = w.toNat / 4096 ∧ (fieldX w).toNat = w.toNat / 256 % 16 ∧
    (fieldY w).toNat = w.toNat / 16 % 16 ∧ (fieldN w).toNat = w.toNat % 16 ∧
    (fieldNN w).toNat = w.toNat % 256 ∧ (fieldNNN w).toNat = w.toNat % 4096

/-- Decoding the word of an instruction gives the instruction back, every operand at every value (R80, R82, R86 (e)). -/
def Obligations.DecodeOfEncode : Prop := ∀ i : Instr, decode (encode i) = .ok i

/-- R86 (e): re-encoding the instruction of a valid word gives the word back, the ignored Y of 8XY6 and 8XYE included. This
is what makes the word a fault reports the fetched one (log 17). -/
def Obligations.EncodeOfDecode : Prop := ∀ (w : Word) (i : Instr), decode w = .ok i → encode i = w

/-- R81: the invalid words are exactly those of its table. The stricter reading of classes 0, 5 and 9 is the spec's decision
D7. -/
def Obligations.InvalidWordsExactly : Prop :=
  ∀ w : Word, (∀ i, decode w ≠ .ok i) ↔
    (fieldClass w = 0x0 ∧ w ≠ 0x00E0 ∧ w ≠ 0x00EE) ∨
    (fieldClass w = 0x5 ∧ fieldN w ≠ 0) ∨
    (fieldClass w = 0x8 ∧ fieldN w ∈ ([0x8, 0x9, 0xA, 0xB, 0xC, 0xD, 0xF] : List Nibble)) ∨
    (fieldClass w = 0x9 ∧ fieldN w ≠ 0) ∨
    (fieldClass w = 0xE ∧ fieldNN w ∉ ([0x9E, 0xA1] : List Byte)) ∨
    (fieldClass w = 0xF ∧ fieldNN w ∉ ([0x07, 0x15, 0x18, 0x1E, 0x29, 0x33, 0x55, 0x65] : List Byte))

/-- R80: a word selects a row of the opcode map exactly when it decodes to an instruction of that row; so the rows are
disjoint and the decoder is the map. -/
def Obligations.RowSelectsInstruction : Prop :=
  ∀ (w : Word) (k : Nat) (r : Row), opcodeRows[k]? = some r →
    (w &&& r.mask = r.value ↔ ∃ i, decode w = .ok i ∧ i.rowNumber = k + 1)

/-- R76, R77, R78: the secondary dispatch of classes 8, E and F. That a word is invalid is the rules'; the name of the reason it
is rejected for is the model's (log 30). -/
def Obligations.SecondaryDispatch : Prop :=
  ∀ w : Word,
    (fieldClass w = 0x8 →
      (fieldN w = 0x0 → decode w = .ok (.op8XY0 (fieldX w) (fieldY w))) ∧
      (fieldN w = 0x1 → decode w = .ok (.op8XY1 (fieldX w) (fieldY w))) ∧
      (fieldN w = 0x2 → decode w = .ok (.op8XY2 (fieldX w) (fieldY w))) ∧
      (fieldN w = 0x3 → decode w = .ok (.op8XY3 (fieldX w) (fieldY w))) ∧
      (fieldN w = 0x4 → decode w = .ok (.op8XY4 (fieldX w) (fieldY w))) ∧
      (fieldN w = 0x5 → decode w = .ok (.op8XY5 (fieldX w) (fieldY w))) ∧
      (fieldN w = 0x6 → decode w = .ok (.op8XY6 (fieldX w) (fieldY w))) ∧
      (fieldN w = 0x7 → decode w = .ok (.op8XY7 (fieldX w) (fieldY w))) ∧
      (fieldN w = 0xE → decode w = .ok (.op8XYE (fieldX w) (fieldY w))) ∧
      (fieldN w ∈ ([0x8, 0x9, 0xA, 0xB, 0xC, 0xD, 0xF] : List Nibble) → decode w = .error .invalidClass8)) ∧
    (fieldClass w = 0xE →
      (fieldNN w = 0x9E → decode w = .ok (.opEX9E (fieldX w))) ∧
      (fieldNN w = 0xA1 → decode w = .ok (.opEXA1 (fieldX w))) ∧
      (fieldNN w ∉ ([0x9E, 0xA1] : List Byte) → decode w = .error .invalidClassE)) ∧
    (fieldClass w = 0xF →
      (fieldNN w = 0x07 → decode w = .ok (.opFX07 (fieldX w))) ∧
      (fieldNN w = 0x15 → decode w = .ok (.opFX15 (fieldX w))) ∧
      (fieldNN w = 0x18 → decode w = .ok (.opFX18 (fieldX w))) ∧
      (fieldNN w = 0x1E → decode w = .ok (.opFX1E (fieldX w))) ∧
      (fieldNN w = 0x29 → decode w = .ok (.opFX29 (fieldX w))) ∧
      (fieldNN w = 0x33 → decode w = .ok (.opFX33 (fieldX w))) ∧
      (fieldNN w = 0x55 → decode w = .ok (.opFX55 (fieldX w))) ∧
      (fieldNN w = 0x65 → decode w = .ok (.opFX65 (fieldX w))) ∧
      (fieldNN w ∉ ([0x07, 0x15, 0x18, 0x1E, 0x29, 0x33, 0x55, 0x65] : List Byte) →
        decode w = .error .invalidClassF))

/-- The rows selected by the words E1 to E10 of 95_test_vectors.md section 2.1. -/
def Obligations.SampleWordsDecode : Prop :=
  decode 0x8AB4 = .ok (.op8XY4 0xA 0xB) ∧ decode 0xDAB5 = .ok (.opDXYN 0xA 0xB 0x5) ∧
    decode 0xF165 = .ok (.opFX65 0x1) ∧ decode 0xE19E = .ok (.opEX9E 0x1) ∧ decode 0x00E0 = .ok .op00E0 ∧
    decode 0x00EE = .ok .op00EE ∧ decode 0x1ABC = .ok (.op1NNN 0xABC) ∧ decode 0x8F06 = .ok (.op8XY6 0xF 0x0) ∧
    decode 0x8FA6 = .ok (.op8XY6 0xF 0xA) ∧ decode 0x5AB0 = .ok (.op5XY0 0xA 0xB)

/-! ### The step -/

/-- R74: when the two bytes at `pc` decode to an instruction, a step of a core that is not halted is that instruction, run on
the state as the environment's ticks left it; nothing moves past the word beforehand. -/
def Obligations.StepRunsDecodedInstruction : Prop :=
  ∀ (s : State) (i : Instr), s.halted = false → s.pc.toNat + 1 < Config.memSize →
    decodeBytes [s.byte s.pc.toNat, s.byte (s.pc.toNat + 1)] = .ok (i, []) → step s = exec i s.betweenSteps

/-- R12, R31, R61, R182: between two steps the environment decrements either timer any number of times, one independently of
the other; a timer stops at zero (the spec's recommended model D15), and nothing else of the machine moves. Queued numbers are
the numbers made (the queue is the model's, log 12). -/
def Obligations.BetweenStepsOnlyTicks : Prop :=
  ∀ s : State, ∃ n : Ticks, (∀ m rest, s.env.ticks = m :: rest → n = m) ∧
    s.betweenSteps.env.dt.toNat = s.env.dt.toNat - n.delay ∧ s.betweenSteps.env.st.toNat = s.env.st.toNat - n.sound ∧
    s.betweenSteps.env.ticks = s.env.ticks.tail ∧ s.betweenSteps.env.randoms = s.env.randoms ∧
    s.betweenSteps.env.presses = s.env.presses ∧ s.betweenSteps.env.collisions = s.env.collisions ∧
    s.betweenSteps.env.trace = s.env.trace ∧ s.betweenSteps.pc = s.pc ∧ KeepsCore [] s s.betweenSteps

/-- R53: the word is the two bytes at `pc`, high byte first, whatever the parity of `pc`; at `pc` = 0xFFF there is no word, the
step raises OutOfBounds, and FAULT_WORD is not valid. What the fault latches and leaves is R174, R178 and R179 (the spec's
decision D8; log 7); when FAULT_WORD counts as valid is the model's definition of R28's words (log 8). -/
def Obligations.FetchIsBigEndian : Prop :=
  ∀ s : State,
    (s.pc ≠ 0xFFF → ∃ w, s.fetch = some w ∧
      w.toNat = (s.byte s.pc.toNat).toNat * 256 + (s.byte (s.pc.toNat + 1)).toNat) ∧
    (s.pc = 0xFFF → s.fetch = none ∧ (s.halted = false → ∃ t, step s = .next t ∧ t.fault = .outOfBounds ∧
      t.faultPc = 0xFFF ∧ t.faultWordValid = false ∧ t.pc = s.pc ∧ KeepsRegs [] s t ∧ t.i = s.i ∧ KeepsStack s t ∧
      KeepsMemory s t ∧ t.params = s.params ∧ t.env = s.betweenSteps.env))

/-- R171: an invalid word at `pc` raises DecodeError with `pc` and the word; no register, no memory byte and no port is touched
and `pc` still points at the word. -/
def Obligations.DecodeErrorIsLatched : Prop :=
  ∀ (s : State) (w : Word), s.halted = false → s.fetch = some w → (∀ i, decode w ≠ .ok i) →
    ∃ t, step s = .next t ∧ RaisedFrom .decodeError w s.betweenSteps t

/-- R208, R180 (the spec's decision D8; the outcome's form is the model's, log 7): a halted core answers with the report it
has, and a core that is not halted always has a next state. -/
def Obligations.StepStopsExactlyWhenHalted : Prop :=
  ∀ s : State, (s.halted = true → step s = .fault (.halted ⟨s.fault, s.faultPc, s.faultWord⟩)) ∧
    (s.halted = false → ∃ t, step s = .next t)

/-! ### Control transfer -/

/-- R100, R172: RET sets `pc` to the newest stack entry; on an empty stack it raises StackUnderflow and changes nothing. -/
def Obligations.ReturnPopsOrUnderflows : Prop :=
  (∀ w : Word, w &&& 0xFFFF#16 = 0x00EE#16 → decode w = .ok .op00EE) ∧
  ∀ s : State,
    (∀ k : Fin 16, s.sp.val = k.val + 1 → ∃ t, exec .op00EE s = .next t ∧ t.pc = s.stack[k] ∧ t.sp.val = k.val ∧
      t.stack = s.stack ∧ KeepsRegs [] s t ∧ t.i = s.i ∧ KeepsMemory s t ∧ KeepsLatch s t ∧ t.params = s.params ∧
      KeepsEnv s t) ∧
    (s.sp.val = 0 → ∃ t, exec .op00EE s = .next t ∧ RaisedFrom .stackUnderflow 0x00EE s t)

/-- R101: JP NNN sets `pc` to NNN, from anywhere, and changes nothing else. -/
def Obligations.JumpSetsPc : Prop :=
  (∀ w : Word, w &&& 0xF000#16 = 0x1000#16 → decode w = .ok (.op1NNN (fieldNNN w))) ∧
  ∀ (nnn : Addr) (s : State), ∃ t, exec (.op1NNN nnn) s = .next t ∧ t.pc = nnn ∧ KeepsRest [] s t

/-- R102, R173: CALL pushes `pc + 2` and jumps; on a full stack StackOverflow, and before that OutOfBounds when the return
address is no address (the spec's decisions D3, D10). -/
def Obligations.CallPushesOrFaults : Prop :=
  ∀ (nnn : Addr) (s : State),
    (s.pc.toNat + 2 < Config.memSize → ∀ k : Fin 16, s.sp.val = k.val → ∃ t, exec (.op2NNN nnn) s = .next t ∧
      t.pc = nnn ∧ t.sp.val = k.val + 1 ∧ t.stack[k].toNat = s.pc.toNat + 2 ∧
      (∀ j : Fin 16, j ≠ k → t.stack[j] = s.stack[j]) ∧ KeepsRegs [] s t ∧ t.i = s.i ∧ KeepsMemory s t ∧
      KeepsLatch s t ∧ t.params = s.params ∧ KeepsEnv s t) ∧
    (s.pc.toNat + 2 < Config.memSize → s.sp.val = 16 → ∃ t, exec (.op2NNN nnn) s = .next t ∧
      RaisedFrom .stackOverflow (encode (.op2NNN nnn)) s t) ∧
    (Config.memSize ≤ s.pc.toNat + 2 → ∃ t, exec (.op2NNN nnn) s = .next t ∧
      RaisedFrom .outOfBounds (encode (.op2NNN nnn)) s t)

/-- R103: JP V0, NNN jumps to the exact sum; above 0xFFF it raises OutOfBounds (the spec's decision D3). -/
def Obligations.IndexedJumpAddsV0 : Prop :=
  ∀ (nnn : Addr) (s : State),
    (nnn.toNat + (s.readV 0).toNat < Config.memSize → ∃ t, exec (.opBNNN nnn) s = .next t ∧
      t.pc.toNat = nnn.toNat + (s.readV 0).toNat ∧ KeepsRest [] s t) ∧
    (Config.memSize ≤ nnn.toNat + (s.readV 0).toNat → ∃ t, exec (.opBNNN nnn) s = .next t ∧
      RaisedFrom .outOfBounds (encode (.opBNNN nnn)) s t)

/-! ### Skips -/

/-- R110, R111, R114: SE and SNE with an immediate move `pc` by 4 or 2 and change nothing else; beyond 0xFFF they raise
OutOfBounds (the spec's decision D3). -/
def Obligations.SkipOnImmediate : Prop :=
  ∀ (x : Nibble) (nn : Byte) (s : State),
    (s.pc.toNat + (if s.readV x = nn then 4 else 2) < Config.memSize → ∃ t, exec (.op3XNN x nn) s = .next t ∧
      t.pc.toNat = s.pc.toNat + (if s.readV x = nn then 4 else 2) ∧ KeepsRest [] s t) ∧
    (Config.memSize ≤ s.pc.toNat + (if s.readV x = nn then 4 else 2) → ∃ t, exec (.op3XNN x nn) s = .next t ∧
      RaisedFrom .outOfBounds (encode (.op3XNN x nn)) s t) ∧
    (s.pc.toNat + (if s.readV x = nn then 2 else 4) < Config.memSize → ∃ t, exec (.op4XNN x nn) s = .next t ∧
      t.pc.toNat = s.pc.toNat + (if s.readV x = nn then 2 else 4) ∧ KeepsRest [] s t) ∧
    (Config.memSize ≤ s.pc.toNat + (if s.readV x = nn then 2 else 4) → ∃ t, exec (.op4XNN x nn) s = .next t ∧
      RaisedFrom .outOfBounds (encode (.op4XNN x nn)) s t)

/-- R112, R113, R114: the same for two registers; with X = Y, 5XY0 always skips and 9XY0 never does. -/
def Obligations.SkipOnRegisters : Prop :=
  ∀ (x y : Nibble) (s : State),
    (s.pc.toNat + (if s.readV x = s.readV y then 4 else 2) < Config.memSize → ∃ t, exec (.op5XY0 x y) s = .next t ∧
      t.pc.toNat = s.pc.toNat + (if s.readV x = s.readV y then 4 else 2) ∧ KeepsRest [] s t) ∧
    (Config.memSize ≤ s.pc.toNat + (if s.readV x = s.readV y then 4 else 2) → ∃ t, exec (.op5XY0 x y) s = .next t ∧
      RaisedFrom .outOfBounds (encode (.op5XY0 x y)) s t) ∧
    (s.pc.toNat + (if s.readV x = s.readV y then 2 else 4) < Config.memSize → ∃ t, exec (.op9XY0 x y) s = .next t ∧
      t.pc.toNat = s.pc.toNat + (if s.readV x = s.readV y then 2 else 4) ∧ KeepsRest [] s t) ∧
    (Config.memSize ≤ s.pc.toNat + (if s.readV x = s.readV y then 2 else 4) → ∃ t, exec (.op9XY0 x y) s = .next t ∧
      RaisedFrom .outOfBounds (encode (.op9XY0 x y)) s t)

/-! ### Register load, arithmetic, logic, shift (below the last two addresses, where `pc + 2` is an address) -/

/-- R120: LD Vx, NN. -/
def Obligations.LoadImmediate : Prop :=
  (∀ w : Word, w &&& 0xF000#16 = 0x6000#16 → decode w = .ok (.op6XNN (fieldX w) (fieldNN w))) ∧
  ∀ (x : Nibble) (nn : Byte) (s : State), s.pc.toNat + 2 < Config.memSize →
    ∃ t, exec (.op6XNN x nn) s = .next t ∧ t.readV x = nn ∧ t.pc.toNat = s.pc.toNat + 2 ∧ KeepsRest [x] s t

/-- R121: ADD Vx, NN wraps and touches no flag. -/
def Obligations.AddImmediateWraps : Prop :=
  (∀ w : Word, w &&& 0xF000#16 = 0x7000#16 → decode w = .ok (.op7XNN (fieldX w) (fieldNN w))) ∧
  ∀ (x : Nibble) (nn : Byte) (s : State), s.pc.toNat + 2 < Config.memSize →
    ∃ t, exec (.op7XNN x nn) s = .next t ∧ (t.readV x).toNat = ((s.readV x).toNat + nn.toNat) % 256 ∧
      t.pc.toNat = s.pc.toNat + 2 ∧ KeepsRest [x] s t

/-- R122: LD Vx, Vy. -/
def Obligations.RegisterMove : Prop :=
  (∀ w : Word, w &&& 0xF00F#16 = 0x8000#16 → decode w = .ok (.op8XY0 (fieldX w) (fieldY w))) ∧
  ∀ (x y : Nibble) (s : State), s.pc.toNat + 2 < Config.memSize →
    ∃ t, exec (.op8XY0 x y) s = .next t ∧ t.readV x = s.readV y ∧ t.pc.toNat = s.pc.toNat + 2 ∧ KeepsRest [x] s t

/-- R123, R124, R125: OR, AND and XOR, bit by bit, with no flag. -/
def Obligations.BitwiseLogic : Prop :=
  (∀ w : Word, (w &&& 0xF00F#16 = 0x8001#16 → decode w = .ok (.op8XY1 (fieldX w) (fieldY w))) ∧
    (w &&& 0xF00F#16 = 0x8002#16 → decode w = .ok (.op8XY2 (fieldX w) (fieldY w))) ∧
    (w &&& 0xF00F#16 = 0x8003#16 → decode w = .ok (.op8XY3 (fieldX w) (fieldY w)))) ∧
  ∀ (x y : Nibble) (s : State), s.pc.toNat + 2 < Config.memSize →
    (∃ t, exec (.op8XY1 x y) s = .next t ∧
      (∀ k, (t.readV x).getLsbD k = ((s.readV x).getLsbD k || (s.readV y).getLsbD k)) ∧
      t.pc.toNat = s.pc.toNat + 2 ∧ KeepsRest [x] s t) ∧
    (∃ t, exec (.op8XY2 x y) s = .next t ∧
      (∀ k, (t.readV x).getLsbD k = ((s.readV x).getLsbD k && (s.readV y).getLsbD k)) ∧
      t.pc.toNat = s.pc.toNat + 2 ∧ KeepsRest [x] s t) ∧
    (∃ t, exec (.op8XY3 x y) s = .next t ∧
      (∀ k, (t.readV x).getLsbD k = ((s.readV x).getLsbD k ^^ (s.readV y).getLsbD k)) ∧
      t.pc.toNat = s.pc.toNat + 2 ∧ KeepsRest [x] s t)

/-- R126: ADD Vx, Vy: the sum modulo 256, then VF = 1 exactly when the exact sum is greater than 255; with X = 0xF the flag is
what stays (the spec's decision D6). -/
def Obligations.AddSetsCarry : Prop :=
  (∀ w : Word, w &&& 0xF00F#16 = 0x8004#16 → decode w = .ok (.op8XY4 (fieldX w) (fieldY w))) ∧
  ∀ (x y : Nibble) (s : State), s.pc.toNat + 2 < Config.memSize →
    ∃ t, exec (.op8XY4 x y) s = .next t ∧
      t.readV 0xF = (if (s.readV x).toNat + (s.readV y).toNat > 255 then 1 else 0) ∧
      (x ≠ 0xF → (t.readV x).toNat = ((s.readV x).toNat + (s.readV y).toNat) % 256) ∧
      t.pc.toNat = s.pc.toNat + 2 ∧ KeepsRest [x, 0xF] s t

/-- R127: SUB Vx, Vy: VF = 1 exactly when no borrow occurs, then the difference modulo 256; with X = 0xF the difference is what
stays (the spec's decision D6). -/
def Obligations.SubtractSetsNoBorrow : Prop :=
  (∀ w : Word, w &&& 0xF00F#16 = 0x8005#16 → decode w = .ok (.op8XY5 (fieldX w) (fieldY w))) ∧
  ∀ (x y : Nibble) (s : State), s.pc.toNat + 2 < Config.memSize →
    ∃ t, exec (.op8XY5 x y) s = .next t ∧
      (x ≠ 0xF → t.readV 0xF = (if (s.readV y).toNat ≤ (s.readV x).toNat then 1 else 0)) ∧
      (t.readV x).toNat = ((s.readV x).toNat + 256 - (s.readV y).toNat) % 256 ∧
      t.pc.toNat = s.pc.toNat + 2 ∧ KeepsRest [x, 0xF] s t

/-- R128: SHR Vx: VF gets bit 0 of Vx before the shift, then Vx is halved; Y is ignored; with X = 0xF the half is
what stays (the spec's decision D6). -/
def Obligations.ShiftRightSetsLowBit : Prop :=
  (∀ w : Word, w &&& 0xF00F#16 = 0x8006#16 → decode w = .ok (.op8XY6 (fieldX w) (fieldY w))) ∧
  ∀ (x y : Nibble) (s : State), s.pc.toNat + 2 < Config.memSize →
    ∃ t, exec (.op8XY6 x y) s = .next t ∧
      (x ≠ 0xF → (t.readV 0xF).toNat = (s.readV x).toNat % 2) ∧ (t.readV x).toNat = (s.readV x).toNat / 2 ∧
      t.pc.toNat = s.pc.toNat + 2 ∧ KeepsRest [x, 0xF] s t

/-- R129: SUBN Vx, Vy: VF = 1 exactly when Vy >= Vx, then Vy - Vx modulo 256 into Vx; with X = 0xF the
difference is what stays (the spec's decision D6). -/
def Obligations.ReverseSubtractSetsNoBorrow : Prop :=
  (∀ w : Word, w &&& 0xF00F#16 = 0x8007#16 → decode w = .ok (.op8XY7 (fieldX w) (fieldY w))) ∧
  ∀ (x y : Nibble) (s : State), s.pc.toNat + 2 < Config.memSize →
    ∃ t, exec (.op8XY7 x y) s = .next t ∧
      (x ≠ 0xF → t.readV 0xF = (if (s.readV x).toNat ≤ (s.readV y).toNat then 1 else 0)) ∧
      (t.readV x).toNat = ((s.readV y).toNat + 256 - (s.readV x).toNat) % 256 ∧
      t.pc.toNat = s.pc.toNat + 2 ∧ KeepsRest [x, 0xF] s t

/-- R130: SHL Vx: VF gets bit 7 of Vx before the shift as 0 or 1, then Vx is doubled modulo 256; Y is ignored;
with X = 0xF the double is what stays (the spec's decision D6). -/
def Obligations.ShiftLeftSetsHighBit : Prop :=
  (∀ w : Word, w &&& 0xF00F#16 = 0x800E#16 → decode w = .ok (.op8XYE (fieldX w) (fieldY w))) ∧
  ∀ (x y : Nibble) (s : State), s.pc.toNat + 2 < Config.memSize →
    ∃ t, exec (.op8XYE x y) s = .next t ∧
      (x ≠ 0xF → (t.readV 0xF).toNat = (s.readV x).toNat / 128) ∧
      (t.readV x).toNat = (s.readV x).toNat * 2 % 256 ∧
      t.pc.toNat = s.pc.toNat + 2 ∧ KeepsRest [x, 0xF] s t

/-! ### The index register, loads and stores -/

/-- R140: LD I, NNN. -/
def Obligations.LoadIndex : Prop :=
  (∀ w : Word, w &&& 0xF000#16 = 0xA000#16 → decode w = .ok (.opANNN (fieldNNN w))) ∧
  ∀ (nnn : Addr) (s : State), s.pc.toNat + 2 < Config.memSize →
    ∃ t, exec (.opANNN nnn) s = .next t ∧ t.i = nnn ∧ t.pc.toNat = s.pc.toNat + 2 ∧ KeepsRegs [] s t ∧
      KeepsStack s t ∧ KeepsMemory s t ∧ KeepsLatch s t ∧ t.params = s.params ∧ KeepsEnv s t

/-- R141: ADD I, Vx, exact; above 0xFFF OutOfBounds and `I` keeps its value (the spec's decision D3). -/
def Obligations.AddToIndex : Prop :=
  ∀ (x : Nibble) (s : State),
    (s.i.toNat + (s.readV x).toNat < Config.memSize → s.pc.toNat + 2 < Config.memSize →
      ∃ t, exec (.opFX1E x) s = .next t ∧ t.i.toNat = s.i.toNat + (s.readV x).toNat ∧
        t.pc.toNat = s.pc.toNat + 2 ∧ KeepsRegs [] s t ∧ KeepsStack s t ∧ KeepsMemory s t ∧ KeepsLatch s t ∧
        t.params = s.params ∧ KeepsEnv s t) ∧
    (Config.memSize ≤ s.i.toNat + (s.readV x).toNat → ∃ t, exec (.opFX1E x) s = .next t ∧
      RaisedFrom .outOfBounds (encode (.opFX1E x)) s t)

/-- R142: LD F, Vx sets `I` to the table's address for a digit 0..15, and for every other byte to a value that depends on the
byte alone (the spec's decision D12; log 3). -/
def Obligations.FontAddressOfDigit : Prop :=
  ∀ (x : Nibble) (s : State), s.pc.toNat + 2 < Config.memSize →
    ∃ t, exec (.opFX29 x) s = .next t ∧
      (∀ d : Fin 16, (s.readV x).toNat = d.val → t.i = s.params.glyphAddr[d]) ∧
      (∀ (x' : Nibble) (s' t' : State), s'.params = s.params → s'.readV x' = s.readV x →
        s'.pc.toNat + 2 < Config.memSize → exec (.opFX29 x') s' = .next t' → t'.i = t.i) ∧
      t.pc.toNat = s.pc.toNat + 2 ∧ KeepsRegs [] s t ∧ KeepsStack s t ∧ KeepsMemory s t ∧ KeepsLatch s t ∧
      t.params = s.params ∧ KeepsEnv s t

/-- R143, R179: LD B, Vx stores the hundreds, tens and ones at I, I+1, I+2 and nothing else; where I+2 is no address it raises
OutOfBounds and the digits below the end stay written (the spec's decision D8). -/
def Obligations.DecimalDigitsStored : Prop :=
  ∀ (x : Nibble) (s : State), s.mem.wf = true →
    (s.dataAddr 2 < Config.memSize → s.pc.toNat + 2 < Config.memSize → ∃ t, exec (.opFX33 x) s = .next t ∧
      (t.byte (s.dataAddr 0)).toNat = (s.readV x).toNat / 100 ∧
      (t.byte (s.dataAddr 1)).toNat = (s.readV x).toNat / 10 % 10 ∧
      (t.byte (s.dataAddr 2)).toNat = (s.readV x).toNat % 10 ∧ KeepsBytes (s.dataAddr 0) 3 s t ∧
      t.pc.toNat = s.pc.toNat + 2 ∧ KeepsRegs [] s t ∧ t.i = s.i ∧ KeepsStack s t ∧ KeepsLatch s t ∧
      t.params = s.params ∧ KeepsEnv s t) ∧
    (Config.memSize ≤ s.dataAddr 2 → ∃ t, exec (.opFX33 x) s = .next t ∧ t.fault = .outOfBounds ∧
      t.faultPc = s.pc ∧ t.faultWord = encode (.opFX33 x) ∧ t.pc = s.pc ∧
      (t.byte (s.dataAddr 0)).toNat = (s.readV x).toNat / 100 ∧
      (s.dataAddr 1 < Config.memSize → (t.byte (s.dataAddr 1)).toNat = (s.readV x).toNat / 10 % 10) ∧
      KeepsBytes (s.dataAddr 0) 3 s t ∧ KeepsRegs [] s t ∧ t.i = s.i ∧ KeepsStack s t ∧ t.params = s.params ∧
      KeepsEnv s t)

/-- R144, R179: LD [I], Vx stores V0..Vx at I..I+X, register k at I+k, and leaves every other byte, every register and `I`
alone; where I+X is no address it raises OutOfBounds and the bytes below the end stay written (the spec's decision D8). -/
def Obligations.RegistersStored : Prop :=
  ∀ (x : Nibble) (s : State), s.mem.wf = true →
    (s.dataAddr x.toNat < Config.memSize → s.pc.toNat + 2 < Config.memSize → ∃ t, exec (.opFX55 x) s = .next t ∧
      (∀ r : Nibble, r.toNat ≤ x.toNat → t.byte (s.dataAddr r.toNat) = s.readV r) ∧
      KeepsBytes (s.dataAddr 0) (x.toNat + 1) s t ∧ t.pc.toNat = s.pc.toNat + 2 ∧ KeepsRegs [] s t ∧ t.i = s.i ∧
      KeepsStack s t ∧ KeepsLatch s t ∧ t.params = s.params ∧ KeepsEnv s t) ∧
    (Config.memSize ≤ s.dataAddr x.toNat → ∃ t, exec (.opFX55 x) s = .next t ∧ t.fault = .outOfBounds ∧
      t.faultPc = s.pc ∧ t.faultWord = encode (.opFX55 x) ∧ t.pc = s.pc ∧
      (∀ r : Nibble, r.toNat ≤ x.toNat → s.dataAddr r.toNat < Config.memSize →
        t.byte (s.dataAddr r.toNat) = s.readV r) ∧
      KeepsBytes (s.dataAddr 0) (x.toNat + 1) s t ∧ KeepsRegs [] s t ∧ t.i = s.i ∧ KeepsStack s t ∧
      t.params = s.params ∧ KeepsEnv s t)

/-- R145, R179: LD Vx, [I] loads V0..Vx from I..I+X and leaves the registers above, memory and `I` alone; where I+X is no
address it raises OutOfBounds and the registers below the end stay loaded (the spec's decision D8). -/
def Obligations.RegistersLoaded : Prop :=
  ∀ (x : Nibble) (s : State),
    (s.dataAddr x.toNat < Config.memSize → s.pc.toNat + 2 < Config.memSize → ∃ t, exec (.opFX65 x) s = .next t ∧
      (∀ r : Nibble, t.readV r = if r.toNat ≤ x.toNat then s.byte (s.dataAddr r.toNat) else s.readV r) ∧
      t.pc.toNat = s.pc.toNat + 2 ∧ t.i = s.i ∧ KeepsStack s t ∧ KeepsMemory s t ∧ KeepsLatch s t ∧
      t.params = s.params ∧ KeepsEnv s t) ∧
    (Config.memSize ≤ s.dataAddr x.toNat → ∃ t, exec (.opFX65 x) s = .next t ∧ t.fault = .outOfBounds ∧
      t.faultPc = s.pc ∧ t.faultWord = encode (.opFX65 x) ∧ t.pc = s.pc ∧
      (∀ r : Nibble, t.readV r =
        if r.toNat ≤ x.toNat ∧ s.dataAddr r.toNat < Config.memSize then s.byte (s.dataAddr r.toNat)
        else s.readV r) ∧
      t.i = s.i ∧ KeepsStack s t ∧ KeepsMemory s t ∧ t.params = s.params ∧ KeepsEnv s t)

/-! ### The ports. A queued answer is the answer; where none is queued the answer is free. -/

/-- R150: CLS makes one `Display.clear()` transaction and changes no core state but `pc`. -/
def Obligations.ClearDisplay : Prop :=
  (∀ w : Word, w &&& 0xFFFF#16 = 0x00E0#16 → decode w = .ok .op00E0) ∧
  ∀ s : State, s.pc.toNat + 2 < Config.memSize →
    ∃ t, exec .op00E0 s = .next t ∧ t.env = { s.env with trace := s.env.trace ++ [.clear] } ∧
      t.draws = s.draws ∧ t.pc.toNat = s.pc.toNat + 2 ∧ KeepsCore [] s t

/-- R151, S11: RND Vx, NN puts the random source's answer, masked with NN, into Vx; with NN = 0 it is 0 whatever the answer
(the answer as an input is the spec's decision D16; queue and free value are the model's form of it, log 9). -/
def Obligations.MaskedRandomByte : Prop :=
  ∀ (x : Nibble) (nn : Byte) (s : State), s.pc.toNat + 2 < Config.memSize →
    ∃ (r : Byte) (t : State), exec (.opCXNN x nn) s = .next t ∧ (∀ b rest, s.env.randoms = b :: rest → r = b) ∧
      t.readV x = r &&& nn ∧ (nn = 0 → t.readV x = 0) ∧
      t.env = { s.env with randoms := s.env.randoms.tail, trace := s.env.trace ++ [.randomByte r] } ∧
      t.pc.toNat = s.pc.toNat + 2 ∧ KeepsCore [x] s t

/-- R152: DRW sends the two full coordinates and the N bytes from I on, in order, and VF gets the display's answer; where a
sprite byte lies beyond memory it raises OutOfBounds before the transaction (N = 0 is the spec's decision D14; queue and free
value are the model's form of the answer, log 11). -/
def Obligations.DrawSpriteSetsCollision : Prop :=
  ∀ (x y n : Nibble) (s : State),
    (n = 0 ∨ s.dataAddr n.toNat ≤ Config.memSize → s.pc.toNat + 2 < Config.memSize →
      ∃ (c : Bool) (t : State), exec (.opDXYN x y n) s = .next t ∧
        (∀ b rest, s.env.collisions = b :: rest → c = b) ∧ t.readV 0xF = (if c then 1 else 0) ∧
        t.env = { s.env with
          collisions := s.env.collisions.tail
          trace := s.env.trace ++ [.drawSprite (s.readV x) (s.readV y)
            ((List.range n.toNat).map fun k => s.byte (s.dataAddr k)) c] } ∧
        t.pc.toNat = s.pc.toNat + 2 ∧ KeepsCore [0xF] s t) ∧
    (n ≠ 0 → Config.memSize < s.dataAddr n.toNat → ∃ t, exec (.opDXYN x y n) s = .next t ∧
      RaisedFrom .outOfBounds (encode (.opDXYN x y n)) s t)

/-- R153, R154: where both targets are addresses, SKP and SKNP ask the keypad once with the full byte of Vx and skip on the
answer, one on true and the other on false (the answer as a free bit is the spec's decision D13; queue and free value are the
model's form of the answer, log 10). -/
def Obligations.SkipOnKey : Prop :=
  ∀ (x : Nibble) (s : State), s.pc.toNat + 4 < Config.memSize →
    ∃ p : Bool, (∀ b rest, s.env.presses = b :: rest → p = b) ∧
      (∃ t, exec (.opEX9E x) s = .next t ∧
        t.env = { s.env with
          presses := s.env.presses.tail
          trace := s.env.trace ++ [.isPressed (s.readV x) p] } ∧
        t.pc.toNat = s.pc.toNat + (if p then 4 else 2) ∧ KeepsCore [] s t) ∧
      (∃ t, exec (.opEXA1 x) s = .next t ∧
        t.env = { s.env with
          presses := s.env.presses.tail
          trace := s.env.trace ++ [.isPressed (s.readV x) p] } ∧
        t.pc.toNat = s.pc.toNat + (if p then 2 else 4) ∧ KeepsCore [] s t)

/-- R153, R154, R114: at the last four addresses SKP and SKNP still make the transaction, and a target beyond 0xFFF then raises
OutOfBounds with nothing else changed (the spec's decisions D3, D8). -/
def Obligations.SkipOnKeyAtTheEnd : Prop :=
  ∀ (x : Nibble) (s : State), Config.memSize ≤ s.pc.toNat + 4 →
    ∃ p : Bool, (∀ b rest, s.env.presses = b :: rest → p = b) ∧
      (∃ t, exec (.opEX9E x) s = .next t ∧
        t.env = { s.env with
          presses := s.env.presses.tail
          trace := s.env.trace ++ [.isPressed (s.readV x) p] } ∧
        (p = false → s.pc.toNat + 2 < Config.memSize → t.pc.toNat = s.pc.toNat + 2 ∧ KeepsCore [] s t) ∧
        (p = true ∨ Config.memSize ≤ s.pc.toNat + 2 → t.fault = .outOfBounds ∧ t.faultPc = s.pc ∧
          t.faultWord = encode (.opEX9E x) ∧ t.pc = s.pc ∧ KeepsRegs [] s t ∧ t.i = s.i ∧ KeepsStack s t ∧
          KeepsMemory s t ∧ t.params = s.params)) ∧
      (∃ t, exec (.opEXA1 x) s = .next t ∧
        t.env = { s.env with
          presses := s.env.presses.tail
          trace := s.env.trace ++ [.isPressed (s.readV x) p] } ∧
        (p = true → s.pc.toNat + 2 < Config.memSize → t.pc.toNat = s.pc.toNat + 2 ∧ KeepsCore [] s t) ∧
        (p = false ∨ Config.memSize ≤ s.pc.toNat + 2 → t.fault = .outOfBounds ∧ t.faultPc = s.pc ∧
          t.faultWord = encode (.opEXA1 x) ∧ t.pc = s.pc ∧ KeepsRegs [] s t ∧ t.i = s.i ∧ KeepsStack s t ∧
          KeepsMemory s t ∧ t.params = s.params))

/-- R155: LD Vx, DT reads the delay timer and leaves it unchanged. -/
def Obligations.ReadDelayTimer : Prop :=
  (∀ w : Word, w &&& 0xF0FF#16 = 0xF007#16 → decode w = .ok (.opFX07 (fieldX w))) ∧
  ∀ (x : Nibble) (s : State), s.pc.toNat + 2 < Config.memSize →
    ∃ t, exec (.opFX07 x) s = .next t ∧ t.readV x = s.env.dt ∧
      t.env = { s.env with trace := s.env.trace ++ [.getDelay s.env.dt] } ∧ t.draws = s.draws ∧
      t.pc.toNat = s.pc.toNat + 2 ∧ KeepsCore [x] s t

/-- R156: LD DT, Vx sets the delay timer; no core state but `pc` changes. -/
def Obligations.SetDelayTimer : Prop :=
  (∀ w : Word, w &&& 0xF0FF#16 = 0xF015#16 → decode w = .ok (.opFX15 (fieldX w))) ∧
  ∀ (x : Nibble) (s : State), s.pc.toNat + 2 < Config.memSize →
    ∃ t, exec (.opFX15 x) s = .next t ∧
      t.env = { s.env with dt := s.readV x, trace := s.env.trace ++ [.setDelay (s.readV x)] } ∧
      t.draws = s.draws ∧ t.pc.toNat = s.pc.toNat + 2 ∧ KeepsCore [] s t

/-- R157: LD ST, Vx sets the sound timer; no core state but `pc` changes. -/
def Obligations.SetSoundTimer : Prop :=
  (∀ w : Word, w &&& 0xF0FF#16 = 0xF018#16 → decode w = .ok (.opFX18 (fieldX w))) ∧
  ∀ (x : Nibble) (s : State), s.pc.toNat + 2 < Config.memSize →
    ∃ t, exec (.opFX18 x) s = .next t ∧
      t.env = { s.env with st := s.readV x, trace := s.env.trace ++ [.setSound (s.readV x)] } ∧
      t.draws = s.draws ∧ t.pc.toNat = s.pc.toNat + 2 ∧ KeepsCore [] s t

/-! ### The whole machine -/

/-- R174, R179 (the spec's decisions D3, D8): at the last two addresses a sequential instruction does all its work, as it
would anywhere, and its `pc` update then raises OutOfBounds, with `pc` unmoved. -/
def Obligations.PcUpdateOutOfBounds : Prop :=
  ∀ (i : Instr) (s : State), sequential i = true → Config.memSize ≤ s.pc.toNat + 2 →
    ∃ t u, exec i s = .next t ∧ exec i { s with pc := 0x200 } = .next u ∧ t.fault = .outOfBounds ∧
      t.faultPc = s.pc ∧ t.faultWord = encode i ∧ t.pc = s.pc ∧ t.v = u.v ∧ t.i = u.i ∧ t.mem = u.mem ∧
      t.stack = u.stack ∧ t.sp = u.sp ∧ t.env = u.env ∧ t.draws = u.draws

/-- R170, R178, R179 (the spec's decisions D8, D9): when an instruction raises a fault, `pc` is unmoved, the latch holds it and
the instruction's word, and the kind is one the instruction can raise, for its stated cause. -/
def Obligations.RaiseReportsTheInstruction : Prop :=
  ∀ (i : Instr) (s t : State), s.halted = false → exec i s = .next t → t.halted = true →
    t.pc = s.pc ∧ t.faultPc = s.pc ∧ t.faultWord = encode i ∧ t.fault ≠ .decodeError ∧
      (t.fault = .stackUnderflow → i = .op00EE ∧ s.sp.val = 0) ∧
      (t.fault = .stackOverflow → (∃ nnn, i = .op2NNN nnn) ∧ s.sp.val = 16) ∧
      (t.fault = .outOfBounds → i ≠ .op00EE ∧ ∀ nnn, i ≠ .op1NNN nnn)

/-- R11 (the spec's decision D5): `I` is changed by ANNN, FX1E and FX29 alone, the stack by 2NNN and 00EE alone, memory by FX33
and FX55 alone, whether the instruction completes or faults; the open parameters by none. -/
def Obligations.FrameOfEveryInstruction : Prop :=
  ∀ (i : Instr) (s t : State), exec i s = .next t →
    (¬ writesI i → t.i = s.i) ∧ (i ≠ .op00EE → (∀ nnn, i ≠ .op2NNN nnn) → KeepsStack s t) ∧
      ((∀ x, i ≠ .opFX33 x) → (∀ x, i ≠ .opFX55 x) → KeepsMemory s t) ∧ t.params = s.params

/-- R20, R21, R11: a register changes only if it is a destination of the instruction; VF only by the flag-writing instructions,
DXYN, and where it is named as the destination. -/
def Obligations.OnlyDestinationsChange : Prop :=
  ∀ (i : Instr) (s t : State), exec i s = .next t → KeepsRegs (destRegs i) s t

/-- R23: where an instruction completes, `pc` moves as the table says. -/
def Obligations.PcMovesAsTabled : Prop :=
  ∀ (i : Instr) (s t : State), exec i s = .next t → t.halted = false →
    (sequential i = true → t.pc.toNat = s.pc.toNat + 2) ∧
      (i = .op00EE → ∃ k : Fin 16, s.sp.val = k.val + 1 ∧ t.pc = s.stack[k]) ∧
      (∀ nnn, i = .op1NNN nnn ∨ i = .op2NNN nnn → t.pc = nnn) ∧
      (∀ nnn, i = .opBNNN nnn → t.pc.toNat = (s.readV 0).toNat + nnn.toNat) ∧
      (∀ x nn, i = .op3XNN x nn → t.pc.toNat = s.pc.toNat + (if s.readV x = nn then 4 else 2)) ∧
      (∀ x nn, i = .op4XNN x nn → t.pc.toNat = s.pc.toNat + (if s.readV x = nn then 2 else 4)) ∧
      (∀ x y, i = .op5XY0 x y → t.pc.toNat = s.pc.toNat + (if s.readV x = s.readV y then 4 else 2)) ∧
      (∀ x y, i = .op9XY0 x y → t.pc.toNat = s.pc.toNat + (if s.readV x = s.readV y then 2 else 4)) ∧
      (∀ x, i = .opEX9E x ∨ i = .opEXA1 x → t.pc.toNat = s.pc.toNat + 4 ∨ t.pc.toNat = s.pc.toNat + 2)

/-- R158, R179: a port instruction makes exactly one transaction on its port, also where its `pc` update then faults; the one
exception is a DXYN whose sprite lies beyond memory, which raises OutOfBounds with none (R152). Every other instruction leaves
the environment alone. The trace the transactions are seen in is the model's record (log 13). -/
def Obligations.OneTransactionPerPortInstruction : Prop :=
  ∀ (i : Instr) (s t : State), exec i s = .next t →
    ((∃ e, transacts i e) → ¬ spriteBeyond i s → ∃ e, transacts i e ∧ t.env.trace = s.env.trace ++ [e]) ∧
    (spriteBeyond i s → t.fault = .outOfBounds ∧ KeepsEnv s t) ∧
    ((∀ e, ¬ transacts i e) → KeepsEnv s t)

/-- R182 (the spec's recommended model D15): over a step the delay timer never increases but by FX15, and the sound timer never
but by FX18. -/
def Obligations.TimersNeverIncrease : Prop :=
  ∀ s t : State, step s = .next t →
    ((∀ w x, s.fetch = some w → decode w ≠ .ok (.opFX15 x)) → t.env.dt.toNat ≤ s.env.dt.toNat) ∧
      ((∀ w x, s.fetch = some w → decode w ≠ .ok (.opFX18 x)) → t.env.st.toNat ≤ s.env.st.toNat)

/-- S5, R100, R102: RET right after CALL restores `pc` to the instruction after the call, and the registers, `I`, SP, the stack
entries in use, memory and the environment are as before. -/
def Obligations.CallThenReturnRestoresPc : Prop :=
  ∀ (nnn : Addr) (s : State), s.pc.toNat + 2 < Config.memSize → s.sp.val < 16 →
    ∃ t u, exec (.op2NNN nnn) s = .next t ∧ exec .op00EE t = .next u ∧ u.pc.toNat = s.pc.toNat + 2 ∧ u.sp = s.sp ∧
      (∀ k : Fin 16, k.val < s.sp.val → u.stack[k] = s.stack[k]) ∧ KeepsRegs [] s u ∧ u.i = s.i ∧
      KeepsMemory s u ∧ KeepsLatch s u ∧ u.params = s.params ∧ KeepsEnv s u

/-- R25, R34 (the spec's decision D18): the stack entries above SP, and the report fields of a latch that holds no fault, are
unobservable: two states that differ in nothing else stay so over a step, and stop alike. -/
def Obligations.UnspecifiedRestIsUnobservable : Prop :=
  ∀ s s' : State, SameObservable s s' →
    (∃ t t', step s = .next t ∧ step s' = .next t' ∧ SameObservable t t') ∨
      (∃ r, step s = .fault r ∧ step s' = .fault r)

/-! ### Reset, load, memory, the invariant -/

/-- R200, R202, R34: RESET from any state, whatever the open parameters: `pc` at LOAD_ADDR, empty stack, no fault, V and I zero
(the spec's decision D11; log 4), each glyph at its address unless a later one covers it, zero elsewhere (D11), and the
environment untouched. That of two overlapping glyphs the later digit's bytes stay is the model's choice (log 32). -/
def Obligations.ResetInitialises : Prop :=
  ∀ s : State, s.doReset.pc = s.params.loadAddr ∧ s.doReset.sp.val = 0 ∧ s.doReset.fault = .none ∧
    (∀ r, s.doReset.readV r = 0) ∧ s.doReset.i = 0 ∧ s.doReset.env = s.env ∧ s.doReset.params = s.params ∧
    (∀ a, (∀ d : Fin 16, ¬ ((s.params.glyphAddr[d]).toNat ≤ a ∧
        a < (s.params.glyphAddr[d]).toNat + (s.params.glyphs[d]).length)) → s.doReset.byte a = 0) ∧
    (glyphsFit s.params = true → ∀ (d : Fin 16) (k : Nat) (b : Byte), (s.params.glyphs[d])[k]? = some b →
      (∀ e : Fin 16, d < e → ¬ ((s.params.glyphAddr[e]).toNat ≤ (s.params.glyphAddr[d]).toNat + k ∧
        (s.params.glyphAddr[d]).toNat + k < (s.params.glyphAddr[e]).toNat + (s.params.glyphs[e]).length)) →
      s.doReset.byte ((s.params.glyphAddr[d]).toNat + k) = b)

/-- S10, R203, R188: LOAD places byte i of the image at LOAD_ADDR + i and changes nothing else; an image that does not fit is
refused. -/
def Obligations.LoadPlacesImage : Prop :=
  ∀ (s : State) (image : List Byte), s.mem.wf = true →
    (s.params.loadAddr.toNat + image.length ≤ Config.memSize → ∃ t, s.load image = some t ∧
      (∀ (k : Nat) (b : Byte), image[k]? = some b → t.byte (s.params.loadAddr.toNat + k) = b) ∧
      KeepsBytes s.params.loadAddr.toNat image.length s t ∧ t.pc = s.pc ∧ KeepsRegs [] s t ∧ t.i = s.i ∧
      KeepsStack s t ∧ KeepsLatch s t ∧ t.params = s.params ∧ KeepsEnv s t) ∧
    (Config.memSize < s.params.loadAddr.toNat + image.length → s.load image = none)

/-- R52: `MemWrite(addr, n, bytes)` writes the bytes at ascending addresses and no other byte; where an address is out of range
it raises OutOfBounds(pc, w), and the bytes below the end stay written (R179, the spec's decision D8; log 22). -/
def Obligations.MemWriteContract : Prop :=
  ∀ (w : Word) (a : Nat) (bytes : List Byte) (s : State), s.mem.wf = true →
    (bytes = [] ∨ a + bytes.length ≤ Config.memSize → ∃ t, s.storeBytes w a bytes = .done t ∧
      (∀ (k : Nat) (b : Byte), bytes[k]? = some b → t.byte (a + k) = b) ∧ KeepsBytes a bytes.length s t ∧
      t.fault = s.fault) ∧
    (bytes ≠ [] → Config.memSize < a + bytes.length → ∃ t, s.storeBytes w a bytes = .raised t ∧
      t.fault = .outOfBounds ∧ t.faultPc = s.pc ∧ t.faultWord = w ∧
      (∀ (k : Nat) (b : Byte), bytes[k]? = some b → a + k < Config.memSize → t.byte (a + k) = b) ∧
      KeepsBytes a bytes.length s t)

/-- Memories in canonical form that read alike are the same list of cells. Of R27's bytes M the spec gives the values and no
form in which they are written down: the list, its canonical form and what an unlisted address reads as are the model's
(log 33, log 2). -/
def Obligations.CanonicalMemoriesAreEqual : Prop :=
  ∀ m m' : Memory, m.wf = true → m'.wf = true → (∀ a, m.read a = m'.read a) → m = m'

/-- The invariant holds after reset, at `State.reset` and under every value of the open parameters and the environment. After
reset no fault is latched (R34), so the clauses about the latch hold of themselves; what remains is that memory is in the
canonical form, which is the model's own (log 33, log 2). -/
def Obligations.InvariantHoldsAtReset : Prop :=
  State.reset.Inv ∧ ∀ (p : Config.Params) (e : Env) (draws : Nat), (State.resetWith p e draws).Inv

/-- Every step keeps the invariant: memory in canonical form (the model's, log 33), and a latch that reports the faulting `pc`, an invalid word for
DecodeError, 00EE on an empty stack for StackUnderflow, a call on a full stack for StackOverflow, and a valid word for every
OutOfBounds after a complete fetch (R35, R170 to R174, R178, R179; the latch is the spec's decision D8). -/
def Obligations.StepKeepsInvariant : Prop := ∀ s t : State, s.Inv → step s = .next t → t.Inv
end

