-- ==== Sys2Proof/Laws/Decode.lean ====
section
/-! SUPPORT. The fields of a word as numbers, and the fields of a word put together from its parts: the lemmas by which
decoding meets encoding. -/

namespace Sys2Proof

set_option Elab.async false

/-- Concatenation as arithmetic (R6: `a : b` is `a * 2^n + b`). -/
theorem toNat_append_eq {m n : Nat} (a : BitVec m) (b : BitVec n) :
    (a ++ b).toNat = a.toNat * 2 ^ n + b.toNat := by
  rw [BitVec.toNat_append, Nat.shiftLeft_eq, ← Nat.shiftLeft_eq, Nat.shiftLeft_add_eq_or_of_lt b.isLt, Nat.shiftLeft_eq]

/-! ### A field of a word, as a number -/

theorem fieldClass_toNat (w : Word) : (fieldClass w).toNat = w.toNat / 4096 := by
  have := w.isLt
  simp only [fieldClass, BitVec.extractLsb'_toNat, Nat.shiftRight_eq_div_pow]; omega

theorem fieldX_toNat (w : Word) : (fieldX w).toNat = w.toNat / 256 % 16 := by
  simp only [fieldX, BitVec.extractLsb'_toNat, Nat.shiftRight_eq_div_pow]

theorem fieldY_toNat (w : Word) : (fieldY w).toNat = w.toNat / 16 % 16 := by
  simp only [fieldY, BitVec.extractLsb'_toNat, Nat.shiftRight_eq_div_pow]

theorem fieldN_toNat (w : Word) : (fieldN w).toNat = w.toNat % 16 := by
  simp only [fieldN, BitVec.extractLsb'_toNat, Nat.shiftRight_eq_div_pow]; omega

theorem fieldNN_toNat (w : Word) : (fieldNN w).toNat = w.toNat % 256 := by
  simp only [fieldNN, BitVec.extractLsb'_toNat, Nat.shiftRight_eq_div_pow]; omega

theorem fieldNNN_toNat (w : Word) : (fieldNNN w).toNat = w.toNat % 4096 := by
  simp only [fieldNNN, BitVec.extractLsb'_toNat, Nat.shiftRight_eq_div_pow]; omega

/-! ### The fields of a word of format NNN, XNN, XYN (R72) -/

@[simp] theorem fieldClass_nnn (c : Nibble) (a : Addr) : fieldClass (c ++ a) = c := by
  apply BitVec.eq_of_toNat_eq
  have h := toNat_append_eq c a
  have := a.isLt
  rw [fieldClass_toNat]; omega

@[simp] theorem fieldNNN_nnn (c : Nibble) (a : Addr) : fieldNNN (c ++ a) = a := by
  apply BitVec.eq_of_toNat_eq
  have h := toNat_append_eq c a
  have := a.isLt
  rw [fieldNNN_toNat]; omega

theorem toNat_xnn (c x : Nibble) (nn : Byte) : (c ++ x ++ nn).toNat = c.toNat * 4096 + x.toNat * 256 + nn.toNat := by
  rw [toNat_append_eq, toNat_append_eq]; omega

@[simp] theorem fieldClass_xnn (c x : Nibble) (nn : Byte) : fieldClass (c ++ x ++ nn) = c := by
  apply BitVec.eq_of_toNat_eq
  have h := toNat_xnn c x nn
  have := x.isLt
  have := nn.isLt
  rw [fieldClass_toNat]; omega

@[simp] theorem fieldX_xnn (c x : Nibble) (nn : Byte) : fieldX (c ++ x ++ nn) = x := by
  apply BitVec.eq_of_toNat_eq
  have h := toNat_xnn c x nn
  have := x.isLt
  have := nn.isLt
  rw [fieldX_toNat]; omega

@[simp] theorem fieldNN_xnn (c x : Nibble) (nn : Byte) : fieldNN (c ++ x ++ nn) = nn := by
  apply BitVec.eq_of_toNat_eq
  have h := toNat_xnn c x nn
  have := nn.isLt
  rw [fieldNN_toNat]; omega

theorem toNat_xyn (c x y n : Nibble) :
    (c ++ x ++ y ++ n).toNat = c.toNat * 4096 + x.toNat * 256 + y.toNat * 16 + n.toNat := by
  rw [toNat_append_eq, toNat_append_eq, toNat_append_eq]; omega

@[simp] theorem fieldClass_xyn (c x y n : Nibble) : fieldClass (c ++ x ++ y ++ n) = c := by
  apply BitVec.eq_of_toNat_eq
  have h := toNat_xyn c x y n
  have := x.isLt
  have := y.isLt
  have := n.isLt
  rw [fieldClass_toNat]; omega

@[simp] theorem fieldX_xyn (c x y n : Nibble) : fieldX (c ++ x ++ y ++ n) = x := by
  apply BitVec.eq_of_toNat_eq
  have h := toNat_xyn c x y n
  have := x.isLt
  have := y.isLt
  have := n.isLt
  rw [fieldX_toNat]; omega

@[simp] theorem fieldY_xyn (c x y n : Nibble) : fieldY (c ++ x ++ y ++ n) = y := by
  apply BitVec.eq_of_toNat_eq
  have h := toNat_xyn c x y n
  have := y.isLt
  have := n.isLt
  rw [fieldY_toNat]; omega

@[simp] theorem fieldN_xyn (c x y n : Nibble) : fieldN (c ++ x ++ y ++ n) = n := by
  apply BitVec.eq_of_toNat_eq
  have h := toNat_xyn c x y n
  have := n.isLt
  rw [fieldN_toNat]; omega

/-! ### A word put together again from its fields (R86 (b)) -/

theorem word_of_nnn (w : Word) : fieldClass w ++ fieldNNN w = w := by
  apply BitVec.eq_of_toNat_eq
  have h := toNat_append_eq (fieldClass w) (fieldNNN w)
  have := w.isLt
  have := fieldClass_toNat w
  have := fieldNNN_toNat w
  omega

theorem word_of_xnn (w : Word) : fieldClass w ++ fieldX w ++ fieldNN w = w := by
  apply BitVec.eq_of_toNat_eq
  have h := toNat_xnn (fieldClass w) (fieldX w) (fieldNN w)
  have := w.isLt
  have := fieldClass_toNat w
  have := fieldX_toNat w
  have := fieldNN_toNat w
  omega

theorem word_of_xyn (w : Word) : fieldClass w ++ fieldX w ++ fieldY w ++ fieldN w = w := by
  apply BitVec.eq_of_toNat_eq
  have h := toNat_xyn (fieldClass w) (fieldX w) (fieldY w) (fieldN w)
  have := w.isLt
  have := fieldClass_toNat w
  have := fieldX_toNat w
  have := fieldY_toNat w
  have := fieldN_toNat w
  omega

/-- Two words with the same four nibbles are one word. -/
theorem word_ext {w v : Word} (hc : fieldClass w = fieldClass v) (hx : fieldX w = fieldX v) (hy : fieldY w = fieldY v)
    (hn : fieldN w = fieldN v) : w = v := by
  rw [← word_of_xyn w, ← word_of_xyn v, hc, hx, hy, hn]

/-- NN is Y : N (R71: the fields overlap). -/
theorem fieldNN_eq (w : Word) : fieldNN w = fieldY w ++ fieldN w := by
  apply BitVec.eq_of_toNat_eq
  have h := toNat_append_eq (fieldY w) (fieldN w)
  have := fieldNN_toNat w
  have := fieldY_toNat w
  have := fieldN_toNat w
  omega

/-! ### The masks of the opcode map, read as conditions on the nibbles (R80) -/

/-- A masked comparison, nibble by nibble. -/
theorem masked_iff (w m v : Word) :
    w &&& m = v ↔
      fieldClass w &&& fieldClass m = fieldClass v ∧ fieldX w &&& fieldX m = fieldX v ∧
        fieldY w &&& fieldY m = fieldY v ∧ fieldN w &&& fieldN m = fieldN v := by
  constructor
  · rintro rfl
    simp [fieldClass, fieldX, fieldY, fieldN, BitVec.extractLsb'_and]
  · rintro ⟨hc, hx, hy, hn⟩
    apply word_ext <;> simp_all [fieldClass, fieldX, fieldY, fieldN, BitVec.extractLsb'_and]

theorem nibble_and_F (a : Nibble) : a &&& 0xF#4 = a := BitVec.and_allOnes

theorem nibble_and_0 (a : Nibble) : a &&& 0x0#4 = 0#4 := BitVec.and_zero

/-- A row that fixes the class only (formats NNN, XNN, XYN). -/
theorem masked_class (w : Word) (c : Nibble) : w &&& 0xF000#16 = c ++ 0#12 ↔ fieldClass w = c := by
  rw [masked_iff, show (c ++ 0#12 : Word) = c ++ 0#4 ++ 0#4 ++ 0#4 from by
    apply BitVec.eq_of_toNat_eq; rw [toNat_xyn, toNat_append_eq]; simp]
  simp [show fieldClass 0xF000#16 = 0xF#4 from rfl, show fieldX 0xF000#16 = 0#4 from rfl,
    show fieldY 0xF000#16 = 0#4 from rfl, show fieldN 0xF000#16 = 0#4 from rfl, nibble_and_F]

/-- A row that fixes the class and N (format XY). -/
theorem masked_class_n (w : Word) (c n : Nibble) :
    w &&& 0xF00F#16 = c ++ 0#4 ++ 0#4 ++ n ↔ fieldClass w = c ∧ fieldN w = n := by
  rw [masked_iff]
  simp [show fieldClass 0xF00F#16 = 0xF#4 from rfl, show fieldX 0xF00F#16 = 0#4 from rfl,
    show fieldY 0xF00F#16 = 0#4 from rfl, show fieldN 0xF00F#16 = 0xF#4 from rfl, nibble_and_F]

/-- A row that fixes the class and NN (format X). -/
theorem masked_class_nn (w : Word) (c y n : Nibble) :
    w &&& 0xF0FF#16 = c ++ 0#4 ++ y ++ n ↔ fieldClass w = c ∧ fieldNN w = y ++ n := by
  rw [masked_iff, fieldNN_eq]
  simp only [fieldClass_xyn, fieldX_xyn, fieldY_xyn, fieldN_xyn, show fieldClass 0xF0FF#16 = 0xF#4 from rfl,
    show fieldX 0xF0FF#16 = 0#4 from rfl, show fieldY 0xF0FF#16 = 0xF#4 from rfl,
    show fieldN 0xF0FF#16 = 0xF#4 from rfl, nibble_and_F, nibble_and_0, true_and]
  constructor
  · rintro ⟨hc, hy, hn⟩; rw [hc, hy, hn]; exact ⟨rfl, rfl⟩
  · rintro ⟨hc, h⟩
    have h1 := congrArg BitVec.toNat h
    rw [toNat_append_eq, toNat_append_eq] at h1
    have := (fieldN w).isLt
    have := n.isLt
    exact ⟨hc, BitVec.eq_of_toNat_eq (by omega), BitVec.eq_of_toNat_eq (by omega)⟩

/-- A row that fixes the whole word (format FIXED). -/
theorem masked_whole (w v : Word) : w &&& 0xFFFF#16 = v ↔ w = v := by
  rw [show (0xFFFF#16 : Word) = BitVec.allOnes 16 from by decide, BitVec.and_allOnes]

/-! ### The dispatch, class by class (R74 to R79) -/

/-- The sixteen values of a nibble. -/
theorem nibble_cases (a : Nibble) :
    a = 0x0 ∨ a = 0x1 ∨ a = 0x2 ∨ a = 0x3 ∨ a = 0x4 ∨ a = 0x5 ∨ a = 0x6 ∨ a = 0x7 ∨ a = 0x8 ∨ a = 0x9 ∨ a = 0xA ∨
      a = 0xB ∨ a = 0xC ∨ a = 0xD ∨ a = 0xE ∨ a = 0xF := by
  revert a; decide

theorem decode_class0 {w : Word} (h : fieldClass w = 0x0) :
    decode w = decodeClass0 w := by
  simp [decode, h]

theorem decode_class1 {w : Word} (h : fieldClass w = 0x1) :
    decode w = .ok (.op1NNN (fieldNNN w)) := by
  simp [decode, h]

theorem decode_class2 {w : Word} (h : fieldClass w = 0x2) :
    decode w = .ok (.op2NNN (fieldNNN w)) := by
  simp [decode, h]

theorem decode_class3 {w : Word} (h : fieldClass w = 0x3) :
    decode w = .ok (.op3XNN (fieldX w) (fieldNN w)) := by
  simp [decode, h]

theorem decode_class4 {w : Word} (h : fieldClass w = 0x4) :
    decode w = .ok (.op4XNN (fieldX w) (fieldNN w)) := by
  simp [decode, h]

theorem decode_class5 {w : Word} (h : fieldClass w = 0x5) :
    decode w = if fieldN w = 0#4 then .ok (.op5XY0 (fieldX w) (fieldY w)) else .error .invalidClass5 := by
  simp [decode, h]

theorem decode_class6 {w : Word} (h : fieldClass w = 0x6) :
    decode w = .ok (.op6XNN (fieldX w) (fieldNN w)) := by
  simp [decode, h]

theorem decode_class7 {w : Word} (h : fieldClass w = 0x7) :
    decode w = .ok (.op7XNN (fieldX w) (fieldNN w)) := by
  simp [decode, h]

theorem decode_class8 {w : Word} (h : fieldClass w = 0x8) :
    decode w = decodeClass8 w := by
  simp [decode, h]

theorem decode_class9 {w : Word} (h : fieldClass w = 0x9) :
    decode w = if fieldN w = 0#4 then .ok (.op9XY0 (fieldX w) (fieldY w)) else .error .invalidClass9 := by
  simp [decode, h]

theorem decode_classA {w : Word} (h : fieldClass w = 0xA) :
    decode w = .ok (.opANNN (fieldNNN w)) := by
  simp [decode, h]

theorem decode_classB {w : Word} (h : fieldClass w = 0xB) :
    decode w = .ok (.opBNNN (fieldNNN w)) := by
  simp [decode, h]

theorem decode_classC {w : Word} (h : fieldClass w = 0xC) :
    decode w = .ok (.opCXNN (fieldX w) (fieldNN w)) := by
  simp [decode, h]

theorem decode_classD {w : Word} (h : fieldClass w = 0xD) :
    decode w = .ok (.opDXYN (fieldX w) (fieldY w) (fieldN w)) := by
  simp [decode, h]

theorem decode_classE {w : Word} (h : fieldClass w = 0xE) :
    decode w = decodeClassE w := by
  simp [decode, h]

theorem decode_classF {w : Word} (h : fieldClass w = 0xF) :
    decode w = decodeClassF w := by
  simp [decode, h]

/-- Class 8 when N is given (R76). -/
theorem decodeClass8_cases (w : Word) (i : Instr) (h : decodeClass8 w = .ok i) :
    (fieldN w = 0x0 ∧ i = .op8XY0 (fieldX w) (fieldY w)) ∨ (fieldN w = 0x1 ∧ i = .op8XY1 (fieldX w) (fieldY w)) ∨
    (fieldN w = 0x2 ∧ i = .op8XY2 (fieldX w) (fieldY w)) ∨ (fieldN w = 0x3 ∧ i = .op8XY3 (fieldX w) (fieldY w)) ∨
    (fieldN w = 0x4 ∧ i = .op8XY4 (fieldX w) (fieldY w)) ∨ (fieldN w = 0x5 ∧ i = .op8XY5 (fieldX w) (fieldY w)) ∨
    (fieldN w = 0x6 ∧ i = .op8XY6 (fieldX w) (fieldY w)) ∨ (fieldN w = 0x7 ∧ i = .op8XY7 (fieldX w) (fieldY w)) ∨
    (fieldN w = 0xE ∧ i = .op8XYE (fieldX w) (fieldY w)) := by
  unfold decodeClass8 at h
  rcases nibble_cases (fieldN w) with hn | hn | hn | hn | hn | hn | hn | hn | hn | hn | hn | hn | hn | hn | hn | hn <;>
    simp [hn] at h ⊢ <;> exact h.symm

/-- A byte with a given number. -/
theorem eq_of_toNat_eq_ofNat {b : Byte} {n : Nat} (h : b.toNat = n) : b = BitVec.ofNat 8 n := by
  rw [← h, BitVec.ofNat_toNat, BitVec.setWidth_eq]

/-- Class E when it decodes (R77). -/
theorem decodeClassE_cases (w : Word) (i : Instr) (h : decodeClassE w = .ok i) :
    (fieldNN w = 0x9E ∧ i = .opEX9E (fieldX w)) ∨ (fieldNN w = 0xA1 ∧ i = .opEXA1 (fieldX w)) := by
  unfold decodeClassE at h
  split at h
  · next hn => cases h; exact .inl ⟨eq_of_toNat_eq_ofNat hn, rfl⟩
  · next hn => cases h; exact .inr ⟨eq_of_toNat_eq_ofNat hn, rfl⟩
  · cases h

/-- Class F when it decodes (R78). -/
theorem decodeClassF_cases (w : Word) (i : Instr) (h : decodeClassF w = .ok i) :
    (fieldNN w = 0x07 ∧ i = .opFX07 (fieldX w)) ∨ (fieldNN w = 0x15 ∧ i = .opFX15 (fieldX w)) ∨
    (fieldNN w = 0x18 ∧ i = .opFX18 (fieldX w)) ∨ (fieldNN w = 0x1E ∧ i = .opFX1E (fieldX w)) ∨
    (fieldNN w = 0x29 ∧ i = .opFX29 (fieldX w)) ∨ (fieldNN w = 0x33 ∧ i = .opFX33 (fieldX w)) ∨
    (fieldNN w = 0x55 ∧ i = .opFX55 (fieldX w)) ∨ (fieldNN w = 0x65 ∧ i = .opFX65 (fieldX w)) := by
  unfold decodeClassF at h
  split at h
  all_goals first
    | (cases h; done)
    | (rename_i hn; have hb := eq_of_toNat_eq_ofNat hn; cases h; simp [hb])

end Sys2Proof
end

