-- ==== Sys2Proof/Laws/Flags.lean ====
section
/-! SUPPORT. The ALU's results and flags as numbers (42_alu.md R131). -/

namespace Sys2Proof.Machine

open Sys2Proof

/-- The stored sum is the exact sum modulo 256. -/
theorem trunc8_natCast_toNat (n : Nat) : (trunc8 (n : Int)).toNat = n % 256 := by
  unfold trunc8
  rw [BitVec.ofInt_natCast, BitVec.toNat_ofNat]

/-- The stored difference is the exact difference modulo 256. -/
theorem trunc8_exactDiff_toNat (a b : Byte) :
    (trunc8 (exactDiff a b)).toNat = (a.toNat + 256 - b.toNat) % 256 := by
  unfold trunc8 exactDiff
  rw [BitVec.toNat_ofInt]
  have := a.isLt
  have := b.isLt
  omega

theorem flagByte_eq (c : Bool) : flagByte c = if c then 1 else 0 := rfl

/-- Carry: 1 exactly when the exact sum is greater than 255. -/
theorem carryFlag_eq (a b : Byte) : carryFlag a b = if a.toNat + b.toNat > 255 then 1 else 0 := by
  simp [carryFlag, flagByte, exactSum]

/-- No borrow: 1 exactly when the subtrahend is at most the minuend. -/
theorem noBorrowFlag_eq (a b : Byte) : noBorrowFlag a b = if b.toNat ≤ a.toNat then 1 else 0 := by
  have h : exactDiff a b ≥ 0 ↔ b.toNat ≤ a.toNat := by unfold exactDiff; omega
  simp only [noBorrowFlag, flagByte, decide_eq_true_eq, h]

theorem lowBitFlag_toNat (a : Byte) : (lowBitFlag a).toNat = a.toNat % 2 := by
  unfold lowBitFlag flagByte
  rcases Nat.mod_two_eq_zero_or_one a.toNat with h | h <;> simp [h]

theorem highBitFlag_toNat (a : Byte) : (highBitFlag a).toNat = a.toNat / 128 := by
  unfold highBitFlag flagByte
  have := a.isLt
  have h : a.toNat / 128 = 0 ∨ a.toNat / 128 = 1 := by omega
  rcases h with h | h <;> simp [h]

end Sys2Proof.Machine
end

