-- ==== Sys2Proof/Laws/Memory.lean ====
section
/-! SUPPORT. What the memory operations do: a read after a write, and the canonical form kept by each of them. -/

namespace Sys2Proof.Machine

open Sys2Proof

set_option Elab.async false

@[simp] theorem Memory.read_nil (a : Nat) : Memory.read [] a = Memory.unlisted a := rfl

/-- The canonical form of a memory with a first cell. -/
theorem Memory.wfFrom_iff {lo k : Nat} {b : Byte} {m : Memory} :
    Memory.wfFrom lo ((k, b) :: m) = true ↔
      lo ≤ k ∧ k < Config.memSize ∧ b ≠ Memory.unlisted k ∧ Memory.wfFrom (k + 1) m = true := by
  simp only [Memory.wfFrom, Bool.and_eq_true, decide_eq_true_eq, bne_iff_ne, and_assoc]

/-- Under the canonical form an address below the first possible one reads as unlisted. -/
theorem Memory.read_below {m : Memory} {lo a : Nat} (h : Memory.wfFrom lo m = true) (ha : a < lo) :
    m.read a = Memory.unlisted a := by
  induction m generalizing lo with
  | nil => rfl
  | cons c m ih =>
    obtain ⟨hlo, -, -, hm⟩ := Memory.wfFrom_iff.mp h
    rw [Memory.read, if_neg (by omega)]
    exact ih hm (by omega)

/-- Putting a byte in front of a memory that lists nothing up to its address. -/
theorem Memory.read_cons {m : Memory} {a : Nat} (b : Byte) (h : m.read a = Memory.unlisted a) (x : Nat) :
    (Memory.cons a b m).read x = if x = a then b else m.read x := by
  unfold Memory.cons
  split
  · next hb => split
               · next hx => rw [hx, h, hb]
               · rfl
  · simp only [Memory.read, eq_comm]

theorem Memory.wfFrom_mono {m : Memory} {lo lo' : Nat} (h : Memory.wfFrom lo m = true) (hl : lo' ≤ lo) :
    Memory.wfFrom lo' m = true := by
  cases m with
  | nil => rfl
  | cons c m =>
    obtain ⟨hlo, hrest⟩ := Memory.wfFrom_iff.mp h
    exact Memory.wfFrom_iff.mpr ⟨by omega, hrest⟩

theorem Memory.wfFrom_cons {m : Memory} {lo a : Nat} {b : Byte} (hlo : lo ≤ a) (ha : a < Config.memSize)
    (h : Memory.wfFrom (a + 1) m = true) : Memory.wfFrom lo (Memory.cons a b m) = true := by
  unfold Memory.cons
  split
  · exact Memory.wfFrom_mono h (by omega)
  · next hb => exact Memory.wfFrom_iff.mpr ⟨hlo, ha, hb, h⟩

/-- Read after write (R52, R57), on a memory in canonical form. -/
theorem Memory.read_writeFrom {m : Memory} {lo : Nat} (h : Memory.wfFrom lo m = true) (a : Nat) (b : Byte) (x : Nat) :
    (m.write a b).read x = if x = a then b else m.read x := by
  induction m generalizing lo with
  | nil => exact Memory.read_cons b rfl x
  | cons c m ih =>
    obtain ⟨k, c⟩ := c
    obtain ⟨-, hk, hc, hm⟩ := Memory.wfFrom_iff.mp h
    unfold Memory.write
    split
    · next hak => exact Memory.read_cons b (Memory.read_below (Memory.wfFrom_iff.mpr ⟨le_rfl, hk, hc, hm⟩) hak) x
    · split
      · next hak =>
        subst hak
        rw [Memory.read_cons b (Memory.read_below hm (by omega)), Memory.read]
        by_cases hx : x = a
        · rw [if_pos hx, if_pos hx]
        · rw [if_neg hx, if_neg hx, if_neg (Ne.symm hx)]
      · next hne =>
        rw [Memory.read, Memory.read, ih hm]
        by_cases hx : k = x
        · rw [if_pos hx, if_pos hx, if_neg (by omega)]
        · rw [if_neg hx, if_neg hx]

theorem Memory.wfFrom_write {m : Memory} {lo a : Nat} {b : Byte} (h : Memory.wfFrom lo m = true) (hlo : lo ≤ a)
    (ha : a < Config.memSize) : Memory.wfFrom lo (m.write a b) = true := by
  induction m generalizing lo with
  | nil => exact Memory.wfFrom_cons hlo ha rfl
  | cons c m ih =>
    obtain ⟨k, c⟩ := c
    obtain ⟨hk, hs, hc, hm⟩ := Memory.wfFrom_iff.mp h
    unfold Memory.write
    split
    · next hak => exact Memory.wfFrom_cons hlo ha (Memory.wfFrom_iff.mpr ⟨hak, hs, hc, hm⟩)
    · split
      · next hak => subst hak; exact Memory.wfFrom_cons hlo ha hm
      · exact Memory.wfFrom_iff.mpr ⟨hk, hs, hc, ih hm (by omega)⟩

/-- A read after a write gives the byte written there, and every other byte as before (R52). -/
theorem Memory.read_write {m : Memory} (h : m.wf = true) (a : Nat) (b : Byte) (x : Nat) :
    (m.write a b).read x = if x = a then b else m.read x :=
  Memory.read_writeFrom h a b x

/-- A write leaves every other byte alone, on any list of cells. -/
theorem Memory.read_write_ne {m : Memory} {a x : Nat} (b : Byte) (hx : x ≠ a) : (m.write a b).read x = m.read x := by
  have hcons : ∀ n : Memory, (Memory.cons a b n).read x = n.read x := by
    intro n
    unfold Memory.cons
    split
    · rfl
    · rw [Memory.read, if_neg (Ne.symm hx)]
  induction m with
  | nil => exact hcons []
  | cons c m ih =>
    obtain ⟨k, c⟩ := c
    unfold Memory.write
    split
    · exact hcons _
    · split
      · next hk => rw [hcons, Memory.read, if_neg (by omega)]
      · simp only [Memory.read, ih]

/-- A write keeps the canonical form. -/
theorem Memory.wf_write {m : Memory} {a : Nat} {b : Byte} (h : m.wf = true) (ha : a < Config.memSize) :
    (m.write a b).wf = true :=
  Memory.wfFrom_write h (Nat.zero_le a) ha

/-- Placing bytes keeps the canonical form. -/
theorem Memory.wf_place {m : Memory} (h : m.wf = true) (a : Nat) (bs : List Byte) : (m.place a bs).wf = true := by
  induction bs generalizing m a with
  | nil => exact h
  | cons b bs ih =>
    unfold Memory.place
    split
    · next ha => exact ih (Memory.wf_write h ha) (a + 1)
    · exact h

/-- The bytes placed are read back where they lie in memory, and every other byte reads as before. -/
theorem Memory.read_place {m : Memory} (h : m.wf = true) (a : Nat) (bs : List Byte) (x : Nat) :
    (m.place a bs).read x =
      if a ≤ x ∧ x < a + bs.length ∧ x < Config.memSize then bs.getD (x - a) 0 else m.read x := by
  induction bs generalizing m a with
  | nil => rw [Memory.place, if_neg (by simp only [List.length_nil]; omega)]
  | cons b bs ih =>
    unfold Memory.place
    split
    · next ha =>
      rw [ih (Memory.wf_write h ha), Memory.read_write h, List.length_cons]
      by_cases hx : x = a
      · subst hx
        rw [if_neg (by omega), if_pos rfl, if_pos (by omega), Nat.sub_self, List.getD_cons_zero]
      · rw [if_neg hx]
        by_cases hin : a + 1 ≤ x ∧ x < a + 1 + bs.length ∧ x < Config.memSize
        · rw [if_pos hin, if_pos (by omega), show x - a = (x - (a + 1)) + 1 by omega, List.getD_cons_succ]
        · rw [if_neg hin, if_neg (by omega)]
    · rw [if_neg (by omega)]

/-- Placing bytes leaves every address outside them alone, on any list of cells. -/
theorem Memory.read_place_outside {m : Memory} {a x : Nat} {bs : List Byte} (hx : ¬ (a ≤ x ∧ x < a + bs.length)) :
    (m.place a bs).read x = m.read x := by
  induction bs generalizing m a with
  | nil => rfl
  | cons b bs ih =>
    rw [List.length_cons] at hx
    unfold Memory.place
    split
    · rw [ih (by omega), Memory.read_write_ne b (by omega)]
    · rfl

/-- Placing the glyphs keeps the canonical form. -/
theorem Memory.wf_placeGlyphs {m : Memory} (h : m.wf = true) (gs : List (Addr × List Byte)) :
    (m.placeGlyphs gs).wf = true := by
  induction gs generalizing m with
  | nil => exact h
  | cons g gs ih => exact ih (Memory.wf_place h _ _)

/-- Memory after RESET is in canonical form, whatever the parameters. -/
theorem Memory.wf_initial (p : Config.Params) : (Memory.initial p).wf = true :=
  Memory.wf_placeGlyphs (Memory.wf_place rfl _ _) _

/-- LOAD keeps the canonical form. -/
theorem State.load_wf {s t : State} {image : List Byte} (h : s.mem.wf = true) (hl : s.load image = some t) :
    t.mem.wf = true := by
  unfold State.load at hl
  split at hl
  · cases hl; exact Memory.wf_place h _ _
  · cases hl

end Sys2Proof.Machine
end

