-- ==== Sys2Proof/Laws/State.lean ====
section
/-! SUPPORT. One lemma per field per update of State, true by rfl, so that no proof unfolds a record update; then what the
observations (a register, a byte, the halted bit) see of each update. -/

namespace Sys2Proof.Machine

open Sys2Proof

/-! ### raise -/

@[simp] theorem State.raise_v (k : FaultKind) (w : Word) (s : State) : (s.raise k w).v = s.v := rfl
@[simp] theorem State.raise_pc (k : FaultKind) (w : Word) (s : State) : (s.raise k w).pc = s.pc := rfl
@[simp] theorem State.raise_i (k : FaultKind) (w : Word) (s : State) : (s.raise k w).i = s.i := rfl
@[simp] theorem State.raise_stack (k : FaultKind) (w : Word) (s : State) : (s.raise k w).stack = s.stack := rfl
@[simp] theorem State.raise_sp (k : FaultKind) (w : Word) (s : State) : (s.raise k w).sp = s.sp := rfl
@[simp] theorem State.raise_mem (k : FaultKind) (w : Word) (s : State) : (s.raise k w).mem = s.mem := rfl
@[simp] theorem State.raise_fault (k : FaultKind) (w : Word) (s : State) : (s.raise k w).fault = k := rfl
@[simp] theorem State.raise_faultPc (k : FaultKind) (w : Word) (s : State) : (s.raise k w).faultPc = s.pc := rfl
@[simp] theorem State.raise_faultWord (k : FaultKind) (w : Word) (s : State) : (s.raise k w).faultWord = w := rfl
@[simp] theorem State.raise_params (k : FaultKind) (w : Word) (s : State) : (s.raise k w).params = s.params := rfl
@[simp] theorem State.raise_env (k : FaultKind) (w : Word) (s : State) : (s.raise k w).env = s.env := rfl
@[simp] theorem State.raise_draws (k : FaultKind) (w : Word) (s : State) : (s.raise k w).draws = s.draws := rfl

@[simp] theorem State.raise_readV (k : FaultKind) (w : Word) (s : State) (q : Nibble) : (s.raise k w).readV q = s.readV q := rfl
@[simp] theorem State.raise_byte (k : FaultKind) (w : Word) (s : State) (a : Nat) : (s.raise k w).byte a = s.byte a := rfl

/-! ### raiseFetch -/

@[simp] theorem State.raiseFetch_v (s : State) : (s.raiseFetch).v = s.v := rfl
@[simp] theorem State.raiseFetch_pc (s : State) : (s.raiseFetch).pc = s.pc := rfl
@[simp] theorem State.raiseFetch_i (s : State) : (s.raiseFetch).i = s.i := rfl
@[simp] theorem State.raiseFetch_stack (s : State) : (s.raiseFetch).stack = s.stack := rfl
@[simp] theorem State.raiseFetch_sp (s : State) : (s.raiseFetch).sp = s.sp := rfl
@[simp] theorem State.raiseFetch_mem (s : State) : (s.raiseFetch).mem = s.mem := rfl
@[simp] theorem State.raiseFetch_fault (s : State) : (s.raiseFetch).fault = FaultKind.outOfBounds := rfl
@[simp] theorem State.raiseFetch_faultPc (s : State) : (s.raiseFetch).faultPc = s.pc := rfl
@[simp] theorem State.raiseFetch_faultWord (s : State) : (s.raiseFetch).faultWord = Config.freeFaultWord s.draws := rfl
@[simp] theorem State.raiseFetch_params (s : State) : (s.raiseFetch).params = s.params := rfl
@[simp] theorem State.raiseFetch_env (s : State) : (s.raiseFetch).env = s.env := rfl
@[simp] theorem State.raiseFetch_draws (s : State) : (s.raiseFetch).draws = s.draws + 1 := rfl

@[simp] theorem State.raiseFetch_readV (s : State) (q : Nibble) : (s.raiseFetch).readV q = s.readV q := rfl
@[simp] theorem State.raiseFetch_byte (s : State) (a : Nat) : (s.raiseFetch).byte a = s.byte a := rfl

/-! ### jumpTo -/

@[simp] theorem State.jumpTo_v (t : Addr) (s : State) : (s.jumpTo t).v = s.v := rfl
@[simp] theorem State.jumpTo_pc (t : Addr) (s : State) : (s.jumpTo t).pc = t := rfl
@[simp] theorem State.jumpTo_i (t : Addr) (s : State) : (s.jumpTo t).i = s.i := rfl
@[simp] theorem State.jumpTo_stack (t : Addr) (s : State) : (s.jumpTo t).stack = s.stack := rfl
@[simp] theorem State.jumpTo_sp (t : Addr) (s : State) : (s.jumpTo t).sp = s.sp := rfl
@[simp] theorem State.jumpTo_mem (t : Addr) (s : State) : (s.jumpTo t).mem = s.mem := rfl
@[simp] theorem State.jumpTo_fault (t : Addr) (s : State) : (s.jumpTo t).fault = s.fault := rfl
@[simp] theorem State.jumpTo_faultPc (t : Addr) (s : State) : (s.jumpTo t).faultPc = s.faultPc := rfl
@[simp] theorem State.jumpTo_faultWord (t : Addr) (s : State) : (s.jumpTo t).faultWord = s.faultWord := rfl
@[simp] theorem State.jumpTo_params (t : Addr) (s : State) : (s.jumpTo t).params = s.params := rfl
@[simp] theorem State.jumpTo_env (t : Addr) (s : State) : (s.jumpTo t).env = s.env := rfl
@[simp] theorem State.jumpTo_draws (t : Addr) (s : State) : (s.jumpTo t).draws = s.draws := rfl

@[simp] theorem State.jumpTo_readV (t : Addr) (s : State) (q : Nibble) : (s.jumpTo t).readV q = s.readV q := rfl
@[simp] theorem State.jumpTo_byte (t : Addr) (s : State) (a : Nat) : (s.jumpTo t).byte a = s.byte a := rfl
@[simp] theorem State.jumpTo_halted (t : Addr) (s : State) : (s.jumpTo t).halted = s.halted := rfl

/-! ### setI -/

@[simp] theorem State.setI_v (t : Addr) (s : State) : (s.setI t).v = s.v := rfl
@[simp] theorem State.setI_pc (t : Addr) (s : State) : (s.setI t).pc = s.pc := rfl
@[simp] theorem State.setI_i (t : Addr) (s : State) : (s.setI t).i = t := rfl
@[simp] theorem State.setI_stack (t : Addr) (s : State) : (s.setI t).stack = s.stack := rfl
@[simp] theorem State.setI_sp (t : Addr) (s : State) : (s.setI t).sp = s.sp := rfl
@[simp] theorem State.setI_mem (t : Addr) (s : State) : (s.setI t).mem = s.mem := rfl
@[simp] theorem State.setI_fault (t : Addr) (s : State) : (s.setI t).fault = s.fault := rfl
@[simp] theorem State.setI_faultPc (t : Addr) (s : State) : (s.setI t).faultPc = s.faultPc := rfl
@[simp] theorem State.setI_faultWord (t : Addr) (s : State) : (s.setI t).faultWord = s.faultWord := rfl
@[simp] theorem State.setI_params (t : Addr) (s : State) : (s.setI t).params = s.params := rfl
@[simp] theorem State.setI_env (t : Addr) (s : State) : (s.setI t).env = s.env := rfl
@[simp] theorem State.setI_draws (t : Addr) (s : State) : (s.setI t).draws = s.draws := rfl

@[simp] theorem State.setI_readV (t : Addr) (s : State) (q : Nibble) : (s.setI t).readV q = s.readV q := rfl
@[simp] theorem State.setI_byte (t : Addr) (s : State) (a : Nat) : (s.setI t).byte a = s.byte a := rfl
@[simp] theorem State.setI_halted (t : Addr) (s : State) : (s.setI t).halted = s.halted := rfl

/-! ### writeV -/

@[simp] theorem State.writeV_v (r : Nibble) (b : Byte) (s : State) : (s.writeV r b).v = s.v.set r.toNat b := rfl
@[simp] theorem State.writeV_pc (r : Nibble) (b : Byte) (s : State) : (s.writeV r b).pc = s.pc := rfl
@[simp] theorem State.writeV_i (r : Nibble) (b : Byte) (s : State) : (s.writeV r b).i = s.i := rfl
@[simp] theorem State.writeV_stack (r : Nibble) (b : Byte) (s : State) : (s.writeV r b).stack = s.stack := rfl
@[simp] theorem State.writeV_sp (r : Nibble) (b : Byte) (s : State) : (s.writeV r b).sp = s.sp := rfl
@[simp] theorem State.writeV_mem (r : Nibble) (b : Byte) (s : State) : (s.writeV r b).mem = s.mem := rfl
@[simp] theorem State.writeV_fault (r : Nibble) (b : Byte) (s : State) : (s.writeV r b).fault = s.fault := rfl
@[simp] theorem State.writeV_faultPc (r : Nibble) (b : Byte) (s : State) : (s.writeV r b).faultPc = s.faultPc := rfl
@[simp] theorem State.writeV_faultWord (r : Nibble) (b : Byte) (s : State) : (s.writeV r b).faultWord = s.faultWord := rfl
@[simp] theorem State.writeV_params (r : Nibble) (b : Byte) (s : State) : (s.writeV r b).params = s.params := rfl
@[simp] theorem State.writeV_env (r : Nibble) (b : Byte) (s : State) : (s.writeV r b).env = s.env := rfl
@[simp] theorem State.writeV_draws (r : Nibble) (b : Byte) (s : State) : (s.writeV r b).draws = s.draws := rfl

@[simp] theorem State.writeV_byte (r : Nibble) (b : Byte) (s : State) (a : Nat) : (s.writeV r b).byte a = s.byte a := rfl
@[simp] theorem State.writeV_halted (r : Nibble) (b : Byte) (s : State) : (s.writeV r b).halted = s.halted := rfl

/-! ### emit -/

@[simp] theorem State.emit_v (e : PortEvent) (s : State) : (s.emit e).v = s.v := rfl
@[simp] theorem State.emit_pc (e : PortEvent) (s : State) : (s.emit e).pc = s.pc := rfl
@[simp] theorem State.emit_i (e : PortEvent) (s : State) : (s.emit e).i = s.i := rfl
@[simp] theorem State.emit_stack (e : PortEvent) (s : State) : (s.emit e).stack = s.stack := rfl
@[simp] theorem State.emit_sp (e : PortEvent) (s : State) : (s.emit e).sp = s.sp := rfl
@[simp] theorem State.emit_mem (e : PortEvent) (s : State) : (s.emit e).mem = s.mem := rfl
@[simp] theorem State.emit_fault (e : PortEvent) (s : State) : (s.emit e).fault = s.fault := rfl
@[simp] theorem State.emit_faultPc (e : PortEvent) (s : State) : (s.emit e).faultPc = s.faultPc := rfl
@[simp] theorem State.emit_faultWord (e : PortEvent) (s : State) : (s.emit e).faultWord = s.faultWord := rfl
@[simp] theorem State.emit_params (e : PortEvent) (s : State) : (s.emit e).params = s.params := rfl
@[simp] theorem State.emit_env (e : PortEvent) (s : State) : (s.emit e).env = { s.env with trace := s.env.trace ++ [e] } := rfl
@[simp] theorem State.emit_draws (e : PortEvent) (s : State) : (s.emit e).draws = s.draws := rfl

@[simp] theorem State.emit_readV (e : PortEvent) (s : State) (q : Nibble) : (s.emit e).readV q = s.readV q := rfl
@[simp] theorem State.emit_byte (e : PortEvent) (s : State) (a : Nat) : (s.emit e).byte a = s.byte a := rfl
@[simp] theorem State.emit_halted (e : PortEvent) (s : State) : (s.emit e).halted = s.halted := rfl

/-! ### displayClear -/

@[simp] theorem State.displayClear_v (s : State) : (s.displayClear).v = s.v := rfl
@[simp] theorem State.displayClear_pc (s : State) : (s.displayClear).pc = s.pc := rfl
@[simp] theorem State.displayClear_i (s : State) : (s.displayClear).i = s.i := rfl
@[simp] theorem State.displayClear_stack (s : State) : (s.displayClear).stack = s.stack := rfl
@[simp] theorem State.displayClear_sp (s : State) : (s.displayClear).sp = s.sp := rfl
@[simp] theorem State.displayClear_mem (s : State) : (s.displayClear).mem = s.mem := rfl
@[simp] theorem State.displayClear_fault (s : State) : (s.displayClear).fault = s.fault := rfl
@[simp] theorem State.displayClear_faultPc (s : State) : (s.displayClear).faultPc = s.faultPc := rfl
@[simp] theorem State.displayClear_faultWord (s : State) : (s.displayClear).faultWord = s.faultWord := rfl
@[simp] theorem State.displayClear_params (s : State) : (s.displayClear).params = s.params := rfl
@[simp] theorem State.displayClear_env (s : State) : (s.displayClear).env = { s.env with trace := s.env.trace ++ [.clear] } := rfl
@[simp] theorem State.displayClear_draws (s : State) : (s.displayClear).draws = s.draws := rfl

@[simp] theorem State.displayClear_readV (s : State) (q : Nibble) : (s.displayClear).readV q = s.readV q := rfl
@[simp] theorem State.displayClear_byte (s : State) (a : Nat) : (s.displayClear).byte a = s.byte a := rfl
@[simp] theorem State.displayClear_halted (s : State) : (s.displayClear).halted = s.halted := rfl

/-! ### setDelay -/

@[simp] theorem State.setDelay_v (b : Byte) (s : State) : (s.setDelay b).v = s.v := rfl
@[simp] theorem State.setDelay_pc (b : Byte) (s : State) : (s.setDelay b).pc = s.pc := rfl
@[simp] theorem State.setDelay_i (b : Byte) (s : State) : (s.setDelay b).i = s.i := rfl
@[simp] theorem State.setDelay_stack (b : Byte) (s : State) : (s.setDelay b).stack = s.stack := rfl
@[simp] theorem State.setDelay_sp (b : Byte) (s : State) : (s.setDelay b).sp = s.sp := rfl
@[simp] theorem State.setDelay_mem (b : Byte) (s : State) : (s.setDelay b).mem = s.mem := rfl
@[simp] theorem State.setDelay_fault (b : Byte) (s : State) : (s.setDelay b).fault = s.fault := rfl
@[simp] theorem State.setDelay_faultPc (b : Byte) (s : State) : (s.setDelay b).faultPc = s.faultPc := rfl
@[simp] theorem State.setDelay_faultWord (b : Byte) (s : State) : (s.setDelay b).faultWord = s.faultWord := rfl
@[simp] theorem State.setDelay_params (b : Byte) (s : State) : (s.setDelay b).params = s.params := rfl
@[simp] theorem State.setDelay_env (b : Byte) (s : State) : (s.setDelay b).env = { s.env with dt := b, trace := s.env.trace ++ [.setDelay b] } := rfl
@[simp] theorem State.setDelay_draws (b : Byte) (s : State) : (s.setDelay b).draws = s.draws := rfl

@[simp] theorem State.setDelay_readV (b : Byte) (s : State) (q : Nibble) : (s.setDelay b).readV q = s.readV q := rfl
@[simp] theorem State.setDelay_byte (b : Byte) (s : State) (a : Nat) : (s.setDelay b).byte a = s.byte a := rfl
@[simp] theorem State.setDelay_halted (b : Byte) (s : State) : (s.setDelay b).halted = s.halted := rfl

/-! ### setSound -/

@[simp] theorem State.setSound_v (b : Byte) (s : State) : (s.setSound b).v = s.v := rfl
@[simp] theorem State.setSound_pc (b : Byte) (s : State) : (s.setSound b).pc = s.pc := rfl
@[simp] theorem State.setSound_i (b : Byte) (s : State) : (s.setSound b).i = s.i := rfl
@[simp] theorem State.setSound_stack (b : Byte) (s : State) : (s.setSound b).stack = s.stack := rfl
@[simp] theorem State.setSound_sp (b : Byte) (s : State) : (s.setSound b).sp = s.sp := rfl
@[simp] theorem State.setSound_mem (b : Byte) (s : State) : (s.setSound b).mem = s.mem := rfl
@[simp] theorem State.setSound_fault (b : Byte) (s : State) : (s.setSound b).fault = s.fault := rfl
@[simp] theorem State.setSound_faultPc (b : Byte) (s : State) : (s.setSound b).faultPc = s.faultPc := rfl
@[simp] theorem State.setSound_faultWord (b : Byte) (s : State) : (s.setSound b).faultWord = s.faultWord := rfl
@[simp] theorem State.setSound_params (b : Byte) (s : State) : (s.setSound b).params = s.params := rfl
@[simp] theorem State.setSound_env (b : Byte) (s : State) : (s.setSound b).env = { s.env with st := b, trace := s.env.trace ++ [.setSound b] } := rfl
@[simp] theorem State.setSound_draws (b : Byte) (s : State) : (s.setSound b).draws = s.draws := rfl

@[simp] theorem State.setSound_readV (b : Byte) (s : State) (q : Nibble) : (s.setSound b).readV q = s.readV q := rfl
@[simp] theorem State.setSound_byte (b : Byte) (s : State) (a : Nat) : (s.setSound b).byte a = s.byte a := rfl
@[simp] theorem State.setSound_halted (b : Byte) (s : State) : (s.setSound b).halted = s.halted := rfl

/-! ### placeBytes -/

@[simp] theorem State.placeBytes_v (a : Nat) (bs : List Byte) (s : State) : (s.placeBytes a bs).v = s.v := rfl
@[simp] theorem State.placeBytes_pc (a : Nat) (bs : List Byte) (s : State) : (s.placeBytes a bs).pc = s.pc := rfl
@[simp] theorem State.placeBytes_i (a : Nat) (bs : List Byte) (s : State) : (s.placeBytes a bs).i = s.i := rfl
@[simp] theorem State.placeBytes_stack (a : Nat) (bs : List Byte) (s : State) : (s.placeBytes a bs).stack = s.stack := rfl
@[simp] theorem State.placeBytes_sp (a : Nat) (bs : List Byte) (s : State) : (s.placeBytes a bs).sp = s.sp := rfl
@[simp] theorem State.placeBytes_mem (a : Nat) (bs : List Byte) (s : State) : (s.placeBytes a bs).mem = s.mem.place a bs := rfl
@[simp] theorem State.placeBytes_fault (a : Nat) (bs : List Byte) (s : State) : (s.placeBytes a bs).fault = s.fault := rfl
@[simp] theorem State.placeBytes_faultPc (a : Nat) (bs : List Byte) (s : State) : (s.placeBytes a bs).faultPc = s.faultPc := rfl
@[simp] theorem State.placeBytes_faultWord (a : Nat) (bs : List Byte) (s : State) : (s.placeBytes a bs).faultWord = s.faultWord := rfl
@[simp] theorem State.placeBytes_params (a : Nat) (bs : List Byte) (s : State) : (s.placeBytes a bs).params = s.params := rfl
@[simp] theorem State.placeBytes_env (a : Nat) (bs : List Byte) (s : State) : (s.placeBytes a bs).env = s.env := rfl
@[simp] theorem State.placeBytes_draws (a : Nat) (bs : List Byte) (s : State) : (s.placeBytes a bs).draws = s.draws := rfl

@[simp] theorem State.placeBytes_readV (a : Nat) (bs : List Byte) (s : State) (q : Nibble) :
    (s.placeBytes a bs).readV q = s.readV q := rfl
@[simp] theorem State.placeBytes_halted (a : Nat) (bs : List Byte) (s : State) : (s.placeBytes a bs).halted = s.halted := rfl

/-! ### setPc, advance, skipIf: what they never change, whether they move `pc` or raise -/

@[simp] theorem State.setPc_v (t : Nat) (w : Word) (s : State) : (s.setPc t w).v = s.v := by
  unfold State.setPc; split <;> rfl

@[simp] theorem State.setPc_i (t : Nat) (w : Word) (s : State) : (s.setPc t w).i = s.i := by
  unfold State.setPc; split <;> rfl

@[simp] theorem State.setPc_stack (t : Nat) (w : Word) (s : State) : (s.setPc t w).stack = s.stack := by
  unfold State.setPc; split <;> rfl

@[simp] theorem State.setPc_sp (t : Nat) (w : Word) (s : State) : (s.setPc t w).sp = s.sp := by
  unfold State.setPc; split <;> rfl

@[simp] theorem State.setPc_mem (t : Nat) (w : Word) (s : State) : (s.setPc t w).mem = s.mem := by
  unfold State.setPc; split <;> rfl

@[simp] theorem State.setPc_params (t : Nat) (w : Word) (s : State) : (s.setPc t w).params = s.params := by
  unfold State.setPc; split <;> rfl

@[simp] theorem State.setPc_env (t : Nat) (w : Word) (s : State) : (s.setPc t w).env = s.env := by
  unfold State.setPc; split <;> rfl

@[simp] theorem State.setPc_draws (t : Nat) (w : Word) (s : State) : (s.setPc t w).draws = s.draws := by
  unfold State.setPc; split <;> rfl

@[simp] theorem State.setPc_readV (t : Nat) (w : Word) (s : State) (q : Nibble) : (s.setPc t w).readV q = s.readV q := by
  unfold State.setPc; split <;> rfl

@[simp] theorem State.setPc_byte (t : Nat) (w : Word) (s : State) (a : Nat) : (s.setPc t w).byte a = s.byte a := by
  unfold State.setPc; split <;> rfl

@[simp] theorem State.advance_v (w : Word) (s : State) : (s.advance w).v = s.v := State.setPc_v _ w s
@[simp] theorem State.advance_i (w : Word) (s : State) : (s.advance w).i = s.i := State.setPc_i _ w s
@[simp] theorem State.advance_stack (w : Word) (s : State) : (s.advance w).stack = s.stack := State.setPc_stack _ w s
@[simp] theorem State.advance_sp (w : Word) (s : State) : (s.advance w).sp = s.sp := State.setPc_sp _ w s
@[simp] theorem State.advance_mem (w : Word) (s : State) : (s.advance w).mem = s.mem := State.setPc_mem _ w s
@[simp] theorem State.advance_params (w : Word) (s : State) : (s.advance w).params = s.params := State.setPc_params _ w s
@[simp] theorem State.advance_env (w : Word) (s : State) : (s.advance w).env = s.env := State.setPc_env _ w s
@[simp] theorem State.advance_draws (w : Word) (s : State) : (s.advance w).draws = s.draws := State.setPc_draws _ w s
@[simp] theorem State.advance_readV (w : Word) (s : State) (q : Nibble) : (s.advance w).readV q = s.readV q := State.setPc_readV _ w s q
@[simp] theorem State.advance_byte (w : Word) (s : State) (a : Nat) : (s.advance w).byte a = s.byte a := State.setPc_byte _ w s a

@[simp] theorem State.skipIf_v (c : Bool) (w : Word) (s : State) : (s.skipIf c w).v = s.v := State.setPc_v _ w s
@[simp] theorem State.skipIf_i (c : Bool) (w : Word) (s : State) : (s.skipIf c w).i = s.i := State.setPc_i _ w s
@[simp] theorem State.skipIf_stack (c : Bool) (w : Word) (s : State) : (s.skipIf c w).stack = s.stack := State.setPc_stack _ w s
@[simp] theorem State.skipIf_sp (c : Bool) (w : Word) (s : State) : (s.skipIf c w).sp = s.sp := State.setPc_sp _ w s
@[simp] theorem State.skipIf_mem (c : Bool) (w : Word) (s : State) : (s.skipIf c w).mem = s.mem := State.setPc_mem _ w s
@[simp] theorem State.skipIf_params (c : Bool) (w : Word) (s : State) : (s.skipIf c w).params = s.params := State.setPc_params _ w s
@[simp] theorem State.skipIf_env (c : Bool) (w : Word) (s : State) : (s.skipIf c w).env = s.env := State.setPc_env _ w s
@[simp] theorem State.skipIf_draws (c : Bool) (w : Word) (s : State) : (s.skipIf c w).draws = s.draws := State.setPc_draws _ w s
@[simp] theorem State.skipIf_readV (c : Bool) (w : Word) (s : State) (q : Nibble) : (s.skipIf c w).readV q = s.readV q := State.setPc_readV _ w s q
@[simp] theorem State.skipIf_byte (c : Bool) (w : Word) (s : State) (a : Nat) : (s.skipIf c w).byte a = s.byte a := State.setPc_byte _ w s a

/-! ### Registers -/

/-- A register after a write to a register (R7, R20). -/
theorem State.readV_writeV (r : Nibble) (b : Byte) (s : State) (q : Nibble) :
    (s.writeV r b).readV q = if q = r then b else s.readV q := by
  unfold State.readV State.writeV
  rw [Vector.getElem_set]
  by_cases h : q = r
  · simp [h]
  · have hn : r.toNat ≠ q.toNat := fun e => h (BitVec.eq_of_toNat_eq e.symm)
    simp [h, hn]

@[simp] theorem State.readV_writeV_self (r : Nibble) (b : Byte) (s : State) : (s.writeV r b).readV r = b := by
  simp [State.readV_writeV]

theorem State.readV_writeV_ne {r q : Nibble} (h : q ≠ r) (b : Byte) (s : State) :
    (s.writeV r b).readV q = s.readV q := by
  simp [State.readV_writeV, h]

@[simp] theorem State.raise_halted (k : FaultKind) (w : Word) (s : State) :
    (s.raise k w).halted = (k != .none) := rfl

@[simp] theorem State.raiseFetch_halted (s : State) : s.raiseFetch.halted = true := rfl

end Sys2Proof.Machine
end

