-- ==== Sys2Proof/Laws/Ops.lean ====
section
/-! SUPPORT. For each shared operation, once, everything it can do; proofs about instructions cite these and do not unfold
the operations. -/

namespace Sys2Proof.Machine

open Sys2Proof

/-! ### The program counter -/

theorem State.setPc_of_lt {t : Nat} (w : Word) {s : State} (h : t < Config.memSize) :
    s.setPc t w = s.jumpTo (BitVec.ofNat 12 t) := if_pos h

theorem State.setPc_of_ge {t : Nat} (w : Word) {s : State} (h : Config.memSize ≤ t) :
    s.setPc t w = s.raise .outOfBounds w := if_neg (Nat.not_lt.mpr h)

/-- Everything `setPc` can do. -/
theorem State.setPc_cases (t : Nat) (w : Word) (s : State) :
    (t < Config.memSize ∧ s.setPc t w = s.jumpTo (BitVec.ofNat 12 t)) ∨
      (Config.memSize ≤ t ∧ s.setPc t w = s.raise .outOfBounds w) := by
  by_cases h : t < Config.memSize
  · exact .inl ⟨h, State.setPc_of_lt w h⟩
  · exact .inr ⟨by omega, State.setPc_of_ge w (by omega)⟩

theorem State.advance_of_lt (w : Word) {s : State} (h : s.pc.toNat + 2 < Config.memSize) :
    s.advance w = s.jumpTo (BitVec.ofNat 12 (s.pc.toNat + 2)) := State.setPc_of_lt w h

/-- Everything `advance` can do. -/
theorem State.advance_cases (w : Word) (s : State) :
    (s.pc.toNat + 2 < Config.memSize ∧ s.advance w = s.jumpTo (BitVec.ofNat 12 (s.pc.toNat + 2))) ∨
      (Config.memSize ≤ s.pc.toNat + 2 ∧ s.advance w = s.raise .outOfBounds w) :=
  State.setPc_cases _ w s

/-- Everything `skipIf` can do. -/
theorem State.skipIf_cases (c : Bool) (w : Word) (s : State) :
    (s.pc.toNat + (if c then 4 else 2) < Config.memSize ∧
        s.skipIf c w = s.jumpTo (BitVec.ofNat 12 (s.pc.toNat + (if c then 4 else 2)))) ∨
      (Config.memSize ≤ s.pc.toNat + (if c then 4 else 2) ∧ s.skipIf c w = s.raise .outOfBounds w) := by
  cases c <;> exact State.setPc_cases _ w s

/-- A 12-bit value of a number below 4096 is that number. -/
theorem toNat_ofNat_addr {t : Nat} (h : t < Config.memSize) : (BitVec.ofNat 12 t).toNat = t := by
  rw [BitVec.toNat_ofNat]; exact Nat.mod_eq_of_lt h

theorem State.setPc_pc_of_lt {t : Nat} (w : Word) {s : State} (h : t < Config.memSize) :
    (s.setPc t w).pc.toNat = t := by
  rw [State.setPc_of_lt w h]; exact toNat_ofNat_addr h

/-- A sequential update that stays in memory moves `pc` by 2 and keeps the latch. -/
theorem State.advance_pc_of_lt (w : Word) {s : State} (h : s.pc.toNat + 2 < Config.memSize) :
    (s.advance w).pc.toNat = s.pc.toNat + 2 := State.setPc_pc_of_lt w h

theorem State.advance_latch_of_lt (w : Word) {s : State} (h : s.pc.toNat + 2 < Config.memSize) :
    (s.advance w).fault = s.fault ∧ (s.advance w).faultPc = s.faultPc ∧ (s.advance w).faultWord = s.faultWord := by
  rw [State.advance_of_lt w h]; exact ⟨rfl, rfl, rfl⟩

/-- A sequential update that leaves memory is a `raise`. -/
theorem State.advance_of_ge (w : Word) {s : State} (h : Config.memSize ≤ s.pc.toNat + 2) :
    s.advance w = s.raise .outOfBounds w := State.setPc_of_ge w h

/-- A skip whose target is an address moves `pc` there and keeps the latch. -/
theorem State.skipIf_of_lt (c : Bool) (w : Word) {s : State} (h : s.pc.toNat + (if c then 4 else 2) < Config.memSize) :
    s.skipIf c w = s.jumpTo (BitVec.ofNat 12 (s.pc.toNat + (if c then 4 else 2))) := by
  rcases State.skipIf_cases c w s with ⟨-, he⟩ | ⟨hge, -⟩
  · exact he
  · omega

theorem State.skipIf_pc_of_lt (c : Bool) (w : Word) {s : State} (h : s.pc.toNat + (if c then 4 else 2) < Config.memSize) :
    (s.skipIf c w).pc.toNat = s.pc.toNat + (if c then 4 else 2) := by
  rw [State.skipIf_of_lt c w h]; exact toNat_ofNat_addr h

/-- A skip whose target is no address is a `raise`. -/
theorem State.skipIf_of_ge (c : Bool) (w : Word) {s : State} (h : Config.memSize ≤ s.pc.toNat + (if c then 4 else 2)) :
    s.skipIf c w = s.raise .outOfBounds w := by
  rcases State.skipIf_cases c w s with ⟨hlt, -⟩ | ⟨-, he⟩
  · omega
  · exact he

/-! ### The call stack -/

/-- Everything `push` can do (R26). -/
theorem State.push_cases (v : Addr) (s : State) :
    (∃ h : s.sp.val < 16, s.push v =
        some { s with stack := s.stack.set s.sp.val v h, sp := ⟨s.sp.val + 1, Nat.succ_lt_succ h⟩ }) ∨
      (s.sp.val = 16 ∧ s.push v = none) := by
  by_cases h : s.sp.val < 16
  · exact .inl ⟨h, dif_pos h⟩
  · exact .inr ⟨by have := s.sp.isLt; omega, dif_neg h⟩

/-- Everything `pop` can do (R26). -/
theorem State.pop_cases (s : State) :
    (∃ (h : s.sp.val - 1 < 16) (h' : s.sp.val - 1 < 17), 0 < s.sp.val ∧ s.pop =
        some (s.stack[s.sp.val - 1], { s with sp := ⟨s.sp.val - 1, h'⟩ })) ∨
      (s.sp.val = 0 ∧ s.pop = none) := by
  by_cases h : s.sp.val = 0
  · exact .inr ⟨h, if_pos h⟩
  · exact .inl ⟨by have := s.sp.isLt; omega, by have := s.sp.isLt; omega, by omega, if_neg h⟩

/-! ### Memory -/

theorem State.memRead_of_lt {a : Nat} {s : State} (h : a < Config.memSize) : s.memRead a = some (s.byte a) := if_pos h

theorem State.memRead_of_ge {a : Nat} {s : State} (h : Config.memSize ≤ a) : s.memRead a = none :=
  if_neg (Nat.not_lt.mpr h)

/-- Everything `MemRead(a, n)` can do (R51): all the bytes, or OutOfBounds when one address is out of range. -/
theorem State.memReadN_eq (s : State) (a n : Nat) :
    s.memReadN a n =
      if n = 0 ∨ a + n ≤ Config.memSize then some ((List.range' a n).map s.byte) else none := by
  induction n generalizing a with
  | zero => simp [State.memReadN]
  | succ n ih =>
    rw [State.memReadN, ih, List.range'_succ, List.map_cons]
    by_cases ha : a < Config.memSize
    · rw [State.memRead_of_lt ha]
      by_cases hn : n = 0 ∨ a + 1 + n ≤ Config.memSize
      · rw [if_pos hn, if_pos (by omega)]
      · rw [if_neg hn, if_neg (by omega)]
    · have hno : ¬ (n + 1 = 0 ∨ a + (n + 1) ≤ Config.memSize) := by omega
      rw [State.memRead_of_ge (by omega), if_neg hno]

/-- Everything `MemWrite(a, n, bytes)` can do (R52, R179): the bytes up to the end of memory are written; if one lies beyond,
OutOfBounds is raised after them. -/
theorem State.storeBytes_eq (w : Word) (a : Nat) (bs : List Byte) (s : State) :
    s.storeBytes w a bs =
      if bs = [] ∨ a + bs.length ≤ Config.memSize then .done (s.placeBytes a bs)
      else .raised ((s.placeBytes a bs).raise .outOfBounds w) := by
  induction bs generalizing a s with
  | nil => simp [State.storeBytes, State.placeBytes, Memory.place]
  | cons b bs ih =>
    rw [State.storeBytes, State.memWrite, State.placeBytes, Memory.place]
    by_cases ha : a < Config.memSize
    · simp only [if_pos ha]
      rw [ih]
      by_cases hbs : bs = [] ∨ a + 1 + bs.length ≤ Config.memSize
      · have hall : b :: bs = [] ∨ a + (b :: bs).length ≤ Config.memSize := by
          right
          rcases hbs with rfl | hlen
          · simpa using ha
          · rw [List.length_cons]; omega
        rw [if_pos hbs, if_pos hall, State.placeBytes]
      · have hall : ¬ (b :: bs = [] ∨ a + (b :: bs).length ≤ Config.memSize) := by
          rw [List.length_cons]; simp only [reduceCtorEq, false_or]; omega
        rw [if_neg hbs, if_neg hall, State.placeBytes]
    · have hall : ¬ (b :: bs = [] ∨ a + (b :: bs).length ≤ Config.memSize) := by
        rw [List.length_cons]; simp only [reduceCtorEq, false_or]; omega
      simp only [if_neg ha, if_neg hall]

/-- The bytes placed are read back where they lie in memory, and every other byte reads as before. -/
theorem State.placeBytes_byte {s : State} (h : s.mem.wf = true) (a : Nat) (bs : List Byte) (x : Nat) :
    (s.placeBytes a bs).byte x =
      if a ≤ x ∧ x < a + bs.length ∧ x < Config.memSize then bs.getD (x - a) 0 else s.byte x :=
  Memory.read_place h a bs x

/-- Placing bytes leaves every address outside them alone, whatever the list of cells. -/
theorem State.placeBytes_byte_outside {s : State} {a x : Nat} {bs : List Byte} (h : ¬ (a ≤ x ∧ x < a + bs.length)) :
    (s.placeBytes a bs).byte x = s.byte x := Memory.read_place_outside h

@[simp] theorem Progress.done_andThen (s : State) (next : State → State) : (Progress.done s).andThen next = next s := rfl

@[simp] theorem Progress.raised_andThen (s : State) (next : State → State) : (Progress.raised s).andThen next = s := rfl

/-! ### The register block of FX55 and FX65 -/

@[simp] theorem State.blockValues_length (s : State) (x : Nibble) : (s.blockValues x).length = x.toNat + 1 := by
  simp [State.blockValues]

theorem State.blockValues_getD (s : State) (x r : Nibble) (h : r.toNat ≤ x.toNat) :
    (s.blockValues x).getD r.toNat 0 = s.readV r := by
  have hr : r.toNat < (s.blockValues x).length := by rw [State.blockValues_length]; omega
  rw [List.getD_eq_getElem _ _ hr]
  simp [State.blockValues]

@[simp] theorem State.writeV_dataAddr (r : Nibble) (b : Byte) (s : State) (k : Nat) :
    (s.writeV r b).dataAddr k = s.dataAddr k := rfl

theorem State.dataAddr_add (s : State) (k : Nat) : s.dataAddr k = s.i.toNat + k := rfl

/-- The sprite read of DXYN (R152): the `n` bytes from I on, unless one of them lies beyond memory. -/
theorem State.memReadN_dataAddr (s : State) (n : Nat) :
    s.memReadN (s.dataAddr 0) n =
      if n = 0 ∨ s.dataAddr n ≤ Config.memSize then some ((List.range n).map fun k => s.byte (s.dataAddr k)) else none := by
  have hd := s.dataAddr_add
  rw [State.memReadN_eq, List.range'_eq_map_range, List.map_map]
  simp only [hd, Nat.add_zero]
  rfl

/-- Everything `loadBlock` can do (R145, R179): the registers whose bytes lie in memory are loaded; if one byte lies beyond,
OutOfBounds is raised after them. Nothing but registers changes before that. -/
theorem State.loadBlock_spec (w : Word) (n k : Nat) (s : State) (hk : k + n ≤ 16) :
    ∃ t : State, t = { s with v := t.v } ∧
      (∀ r : Nibble, t.readV r =
        if k ≤ r.toNat ∧ r.toNat < k + n ∧ s.dataAddr r.toNat < Config.memSize then s.byte (s.dataAddr r.toNat)
        else s.readV r) ∧
      s.loadBlock w n k =
        if n = 0 ∨ s.dataAddr (k + n) ≤ Config.memSize then .done t else .raised (t.raise .outOfBounds w) := by
  induction n generalizing k s with
  | zero => exact ⟨s, rfl, fun r => (if_neg (by omega)).symm, (if_pos (.inl rfl)).symm⟩
  | succ n ih =>
    have hd := s.dataAddr_add
    by_cases ha : s.dataAddr k < Config.memSize
    · have hkk : (BitVec.ofNat 4 k : Nibble).toNat = k := by
        rw [BitVec.toNat_ofNat]; exact Nat.mod_eq_of_lt (by omega)
      obtain ⟨t, ht, hregs, hload⟩ := ih (k + 1) (s.writeV (BitVec.ofNat 4 k) (s.byte (s.dataAddr k))) (by omega)
      rw [State.writeV_dataAddr] at hload
      refine ⟨t, ht, fun r => ?_, ?_⟩
      · have hdr := hd r.toNat
        rw [hregs, State.writeV_dataAddr, State.writeV_byte, State.readV_writeV]
        by_cases hr : r = BitVec.ofNat 4 k
        · have hrk : r.toNat = k := by rw [hr, hkk]
          rw [if_neg (by omega), if_pos hr, if_pos ⟨by omega, by omega, by rw [hrk]; exact ha⟩, hrk]
        · have hrk : r.toNat ≠ k := fun e => hr (BitVec.eq_of_toNat_eq (by rw [hkk, e]))
          rw [if_neg hr]
          by_cases hin : k + 1 ≤ r.toNat ∧ r.toNat < k + 1 + n ∧ s.dataAddr r.toNat < Config.memSize
          · rw [if_pos hin, if_pos ⟨by omega, by omega, hin.2.2⟩]
          · rw [if_neg hin, if_neg (by omega)]
      · have h0 := hd k
        have h1 := hd (k + 1 + n)
        have h2 := hd (k + (n + 1))
        rw [State.loadBlock, State.memRead_of_lt ha]
        refine hload.trans ?_
        by_cases hn : n = 0 ∨ s.dataAddr (k + 1 + n) ≤ Config.memSize
        · rw [if_pos hn, if_pos (by omega)]
        · rw [if_neg hn, if_neg (by omega)]
    · refine ⟨s, rfl, fun r => ?_, ?_⟩
      · have h0 := hd k
        have h1 := hd r.toNat
        rw [if_neg (by omega)]
      · have h0 := hd k
        have h1 := hd (k + (n + 1))
        rw [State.loadBlock, State.memRead_of_ge (by omega), if_neg (by omega)]

/-! ### Fetch -/

/-- Everything a fetch can do (R53): the word of the two bytes, or no word at `pc` = 0xFFF. -/
theorem State.fetch_eq (s : State) :
    s.fetch =
      if s.pc.toNat + 1 < Config.memSize then some (wordOfBytes (s.byte s.pc.toNat) (s.byte (s.pc.toNat + 1)))
      else none := by
  have hpc : s.pc.toNat < Config.memSize := s.pc.isLt
  unfold State.fetch
  rw [State.memRead_of_lt hpc]
  by_cases h : s.pc.toNat + 1 < Config.memSize
  · rw [State.memRead_of_lt h, if_pos h]
  · rw [State.memRead_of_ge (by omega), if_neg h]

end Sys2Proof.Machine
end

