-- ==== Sys2Proof/Laws/PerInstr.lean ====
section
/-! SUPPORT. Statements about every instruction as syntax, one lemma per constructor. -/

namespace Sys2Proof.Laws.RowMatch

open Sys2Proof

set_option Elab.async false

/-- The word of an instruction selects the instruction's own row of the opcode map (R80, R86 (e)). -/
def Statement (i : Instr) : Prop :=
  ∃ r, opcodeRows[i.rowNumber - 1]? = some r ∧ encode i &&& r.mask = r.value

/-- The row fixes the class only. -/
theorem of_class {w v : Word} (c : Nibble) (hv : v = c ++ 0#12) (hc : fieldClass w = c) : w &&& 0xF000#16 = v :=
  hv ▸ (masked_class w c).mpr hc

/-- The row fixes the class and N. -/
theorem of_class_n {w v : Word} (c n : Nibble) (hv : v = c ++ 0#4 ++ 0#4 ++ n) (hc : fieldClass w = c)
    (hn : fieldN w = n) : w &&& 0xF00F#16 = v :=
  hv ▸ (masked_class_n w c n).mpr ⟨hc, hn⟩

/-- The row fixes the class and NN. -/
theorem of_class_nn {w v : Word} (c y n : Nibble) (hv : v = c ++ 0#4 ++ y ++ n) (hc : fieldClass w = c)
    (hn : fieldNN w = y ++ n) : w &&& 0xF0FF#16 = v :=
  hv ▸ (masked_class_nn w c y n).mpr ⟨hc, hn⟩

theorem op00E0 : Statement .op00E0 :=
  ⟨_, rfl, by decide⟩

theorem op00EE : Statement .op00EE :=
  ⟨_, rfl, by decide⟩

theorem op1NNN (nnn : Addr) : Statement (.op1NNN nnn) :=
  ⟨_, rfl, of_class 0x1#4 (by decide) (fieldClass_nnn _ _)⟩

theorem op2NNN (nnn : Addr) : Statement (.op2NNN nnn) :=
  ⟨_, rfl, of_class 0x2#4 (by decide) (fieldClass_nnn _ _)⟩

theorem op3XNN (x : Nibble) (nn : Byte) : Statement (.op3XNN x nn) :=
  ⟨_, rfl, of_class 0x3#4 (by decide) (fieldClass_xnn _ _ _)⟩

theorem op4XNN (x : Nibble) (nn : Byte) : Statement (.op4XNN x nn) :=
  ⟨_, rfl, of_class 0x4#4 (by decide) (fieldClass_xnn _ _ _)⟩

theorem op5XY0 (x y : Nibble) : Statement (.op5XY0 x y) :=
  ⟨_, rfl, of_class_n 0x5#4 0x0#4 (by decide) (fieldClass_xyn _ _ _ _) (fieldN_xyn _ _ _ _)⟩

theorem op6XNN (x : Nibble) (nn : Byte) : Statement (.op6XNN x nn) :=
  ⟨_, rfl, of_class 0x6#4 (by decide) (fieldClass_xnn _ _ _)⟩

theorem op7XNN (x : Nibble) (nn : Byte) : Statement (.op7XNN x nn) :=
  ⟨_, rfl, of_class 0x7#4 (by decide) (fieldClass_xnn _ _ _)⟩

theorem op8XY0 (x y : Nibble) : Statement (.op8XY0 x y) :=
  ⟨_, rfl, of_class_n 0x8#4 0x0#4 (by decide) (fieldClass_xyn _ _ _ _) (fieldN_xyn _ _ _ _)⟩

theorem op8XY1 (x y : Nibble) : Statement (.op8XY1 x y) :=
  ⟨_, rfl, of_class_n 0x8#4 0x1#4 (by decide) (fieldClass_xyn _ _ _ _) (fieldN_xyn _ _ _ _)⟩

theorem op8XY2 (x y : Nibble) : Statement (.op8XY2 x y) :=
  ⟨_, rfl, of_class_n 0x8#4 0x2#4 (by decide) (fieldClass_xyn _ _ _ _) (fieldN_xyn _ _ _ _)⟩

theorem op8XY3 (x y : Nibble) : Statement (.op8XY3 x y) :=
  ⟨_, rfl, of_class_n 0x8#4 0x3#4 (by decide) (fieldClass_xyn _ _ _ _) (fieldN_xyn _ _ _ _)⟩

theorem op8XY4 (x y : Nibble) : Statement (.op8XY4 x y) :=
  ⟨_, rfl, of_class_n 0x8#4 0x4#4 (by decide) (fieldClass_xyn _ _ _ _) (fieldN_xyn _ _ _ _)⟩

theorem op8XY5 (x y : Nibble) : Statement (.op8XY5 x y) :=
  ⟨_, rfl, of_class_n 0x8#4 0x5#4 (by decide) (fieldClass_xyn _ _ _ _) (fieldN_xyn _ _ _ _)⟩

theorem op8XY6 (x y : Nibble) : Statement (.op8XY6 x y) :=
  ⟨_, rfl, of_class_n 0x8#4 0x6#4 (by decide) (fieldClass_xyn _ _ _ _) (fieldN_xyn _ _ _ _)⟩

theorem op8XY7 (x y : Nibble) : Statement (.op8XY7 x y) :=
  ⟨_, rfl, of_class_n 0x8#4 0x7#4 (by decide) (fieldClass_xyn _ _ _ _) (fieldN_xyn _ _ _ _)⟩

theorem op8XYE (x y : Nibble) : Statement (.op8XYE x y) :=
  ⟨_, rfl, of_class_n 0x8#4 0xE#4 (by decide) (fieldClass_xyn _ _ _ _) (fieldN_xyn _ _ _ _)⟩

theorem op9XY0 (x y : Nibble) : Statement (.op9XY0 x y) :=
  ⟨_, rfl, of_class_n 0x9#4 0x0#4 (by decide) (fieldClass_xyn _ _ _ _) (fieldN_xyn _ _ _ _)⟩

theorem opANNN (nnn : Addr) : Statement (.opANNN nnn) :=
  ⟨_, rfl, of_class 0xA#4 (by decide) (fieldClass_nnn _ _)⟩

theorem opBNNN (nnn : Addr) : Statement (.opBNNN nnn) :=
  ⟨_, rfl, of_class 0xB#4 (by decide) (fieldClass_nnn _ _)⟩

theorem opCXNN (x : Nibble) (nn : Byte) : Statement (.opCXNN x nn) :=
  ⟨_, rfl, of_class 0xC#4 (by decide) (fieldClass_xnn _ _ _)⟩

theorem opDXYN (x y n : Nibble) : Statement (.opDXYN x y n) :=
  ⟨_, rfl, of_class 0xD#4 (by decide) (fieldClass_xyn _ _ _ _)⟩

theorem opEX9E (x : Nibble) : Statement (.opEX9E x) :=
  ⟨_, rfl, of_class_nn 0xE#4 0x9#4 0xE#4 (by decide) (fieldClass_xnn _ _ _) (fieldNN_xnn _ _ _)⟩

theorem opEXA1 (x : Nibble) : Statement (.opEXA1 x) :=
  ⟨_, rfl, of_class_nn 0xE#4 0xA#4 0x1#4 (by decide) (fieldClass_xnn _ _ _) (fieldNN_xnn _ _ _)⟩

theorem opFX07 (x : Nibble) : Statement (.opFX07 x) :=
  ⟨_, rfl, of_class_nn 0xF#4 0x0#4 0x7#4 (by decide) (fieldClass_xnn _ _ _) (fieldNN_xnn _ _ _)⟩

theorem opFX15 (x : Nibble) : Statement (.opFX15 x) :=
  ⟨_, rfl, of_class_nn 0xF#4 0x1#4 0x5#4 (by decide) (fieldClass_xnn _ _ _) (fieldNN_xnn _ _ _)⟩

theorem opFX18 (x : Nibble) : Statement (.opFX18 x) :=
  ⟨_, rfl, of_class_nn 0xF#4 0x1#4 0x8#4 (by decide) (fieldClass_xnn _ _ _) (fieldNN_xnn _ _ _)⟩

theorem opFX1E (x : Nibble) : Statement (.opFX1E x) :=
  ⟨_, rfl, of_class_nn 0xF#4 0x1#4 0xE#4 (by decide) (fieldClass_xnn _ _ _) (fieldNN_xnn _ _ _)⟩

theorem opFX29 (x : Nibble) : Statement (.opFX29 x) :=
  ⟨_, rfl, of_class_nn 0xF#4 0x2#4 0x9#4 (by decide) (fieldClass_xnn _ _ _) (fieldNN_xnn _ _ _)⟩

theorem opFX33 (x : Nibble) : Statement (.opFX33 x) :=
  ⟨_, rfl, of_class_nn 0xF#4 0x3#4 0x3#4 (by decide) (fieldClass_xnn _ _ _) (fieldNN_xnn _ _ _)⟩

theorem opFX55 (x : Nibble) : Statement (.opFX55 x) :=
  ⟨_, rfl, of_class_nn 0xF#4 0x5#4 0x5#4 (by decide) (fieldClass_xnn _ _ _) (fieldNN_xnn _ _ _)⟩

theorem opFX65 (x : Nibble) : Statement (.opFX65 x) :=
  ⟨_, rfl, of_class_nn 0xF#4 0x6#4 0x5#4 (by decide) (fieldClass_xnn _ _ _) (fieldNN_xnn _ _ _)⟩

end Sys2Proof.Laws.RowMatch
end

