-- ==== Sys2Proof/Laws/Ports.lean ====
section
/-! SUPPORT. What the port operations and the environment's move between steps do: the core is not touched, field by field,
and the trace grows by the transaction. -/

namespace Sys2Proof.Machine

open Sys2Proof

set_option Elab.async false

/-! ### takeRandom -/

@[simp] theorem State.takeRandom_v (s : State) : s.takeRandom.2.v = s.v := by
  unfold State.takeRandom; split <;> rfl

@[simp] theorem State.takeRandom_pc (s : State) : s.takeRandom.2.pc = s.pc := by
  unfold State.takeRandom; split <;> rfl

@[simp] theorem State.takeRandom_i (s : State) : s.takeRandom.2.i = s.i := by
  unfold State.takeRandom; split <;> rfl

@[simp] theorem State.takeRandom_stack (s : State) : s.takeRandom.2.stack = s.stack := by
  unfold State.takeRandom; split <;> rfl

@[simp] theorem State.takeRandom_sp (s : State) : s.takeRandom.2.sp = s.sp := by
  unfold State.takeRandom; split <;> rfl

@[simp] theorem State.takeRandom_mem (s : State) : s.takeRandom.2.mem = s.mem := by
  unfold State.takeRandom; split <;> rfl

@[simp] theorem State.takeRandom_fault (s : State) : s.takeRandom.2.fault = s.fault := by
  unfold State.takeRandom; split <;> rfl

@[simp] theorem State.takeRandom_faultPc (s : State) : s.takeRandom.2.faultPc = s.faultPc := by
  unfold State.takeRandom; split <;> rfl

@[simp] theorem State.takeRandom_faultWord (s : State) : s.takeRandom.2.faultWord = s.faultWord := by
  unfold State.takeRandom; split <;> rfl

@[simp] theorem State.takeRandom_params (s : State) : s.takeRandom.2.params = s.params := by
  unfold State.takeRandom; split <;> rfl

@[simp] theorem State.takeRandom_env_dt (s : State) : s.takeRandom.2.env.dt = s.env.dt := by
  unfold State.takeRandom; split <;> rfl

@[simp] theorem State.takeRandom_env_st (s : State) : s.takeRandom.2.env.st = s.env.st := by
  unfold State.takeRandom; split <;> rfl

@[simp] theorem State.takeRandom_env_trace (s : State) : s.takeRandom.2.env.trace = s.env.trace := by
  unfold State.takeRandom; split <;> rfl

/-! ### takePressed -/

@[simp] theorem State.takePressed_v (k : Byte) (s : State) : (s.takePressed k).2.v = s.v := by
  unfold State.takePressed; split <;> rfl

@[simp] theorem State.takePressed_pc (k : Byte) (s : State) : (s.takePressed k).2.pc = s.pc := by
  unfold State.takePressed; split <;> rfl

@[simp] theorem State.takePressed_i (k : Byte) (s : State) : (s.takePressed k).2.i = s.i := by
  unfold State.takePressed; split <;> rfl

@[simp] theorem State.takePressed_stack (k : Byte) (s : State) : (s.takePressed k).2.stack = s.stack := by
  unfold State.takePressed; split <;> rfl

@[simp] theorem State.takePressed_sp (k : Byte) (s : State) : (s.takePressed k).2.sp = s.sp := by
  unfold State.takePressed; split <;> rfl

@[simp] theorem State.takePressed_mem (k : Byte) (s : State) : (s.takePressed k).2.mem = s.mem := by
  unfold State.takePressed; split <;> rfl

@[simp] theorem State.takePressed_fault (k : Byte) (s : State) : (s.takePressed k).2.fault = s.fault := by
  unfold State.takePressed; split <;> rfl

@[simp] theorem State.takePressed_faultPc (k : Byte) (s : State) : (s.takePressed k).2.faultPc = s.faultPc := by
  unfold State.takePressed; split <;> rfl

@[simp] theorem State.takePressed_faultWord (k : Byte) (s : State) : (s.takePressed k).2.faultWord = s.faultWord := by
  unfold State.takePressed; split <;> rfl

@[simp] theorem State.takePressed_params (k : Byte) (s : State) : (s.takePressed k).2.params = s.params := by
  unfold State.takePressed; split <;> rfl

@[simp] theorem State.takePressed_env_dt (k : Byte) (s : State) : (s.takePressed k).2.env.dt = s.env.dt := by
  unfold State.takePressed; split <;> rfl

@[simp] theorem State.takePressed_env_st (k : Byte) (s : State) : (s.takePressed k).2.env.st = s.env.st := by
  unfold State.takePressed; split <;> rfl

@[simp] theorem State.takePressed_env_trace (k : Byte) (s : State) : (s.takePressed k).2.env.trace = s.env.trace := by
  unfold State.takePressed; split <;> rfl

/-! ### takeCollided -/

@[simp] theorem State.takeCollided_v (s : State) : s.takeCollided.2.v = s.v := by
  unfold State.takeCollided; split <;> rfl

@[simp] theorem State.takeCollided_pc (s : State) : s.takeCollided.2.pc = s.pc := by
  unfold State.takeCollided; split <;> rfl

@[simp] theorem State.takeCollided_i (s : State) : s.takeCollided.2.i = s.i := by
  unfold State.takeCollided; split <;> rfl

@[simp] theorem State.takeCollided_stack (s : State) : s.takeCollided.2.stack = s.stack := by
  unfold State.takeCollided; split <;> rfl

@[simp] theorem State.takeCollided_sp (s : State) : s.takeCollided.2.sp = s.sp := by
  unfold State.takeCollided; split <;> rfl

@[simp] theorem State.takeCollided_mem (s : State) : s.takeCollided.2.mem = s.mem := by
  unfold State.takeCollided; split <;> rfl

@[simp] theorem State.takeCollided_fault (s : State) : s.takeCollided.2.fault = s.fault := by
  unfold State.takeCollided; split <;> rfl

@[simp] theorem State.takeCollided_faultPc (s : State) : s.takeCollided.2.faultPc = s.faultPc := by
  unfold State.takeCollided; split <;> rfl

@[simp] theorem State.takeCollided_faultWord (s : State) : s.takeCollided.2.faultWord = s.faultWord := by
  unfold State.takeCollided; split <;> rfl

@[simp] theorem State.takeCollided_params (s : State) : s.takeCollided.2.params = s.params := by
  unfold State.takeCollided; split <;> rfl

@[simp] theorem State.takeCollided_env_dt (s : State) : s.takeCollided.2.env.dt = s.env.dt := by
  unfold State.takeCollided; split <;> rfl

@[simp] theorem State.takeCollided_env_st (s : State) : s.takeCollided.2.env.st = s.env.st := by
  unfold State.takeCollided; split <;> rfl

@[simp] theorem State.takeCollided_env_trace (s : State) : s.takeCollided.2.env.trace = s.env.trace := by
  unfold State.takeCollided; split <;> rfl

/-! ### takeTicks -/

@[simp] theorem State.takeTicks_v (s : State) : s.takeTicks.2.v = s.v := by
  unfold State.takeTicks; split <;> rfl

@[simp] theorem State.takeTicks_pc (s : State) : s.takeTicks.2.pc = s.pc := by
  unfold State.takeTicks; split <;> rfl

@[simp] theorem State.takeTicks_i (s : State) : s.takeTicks.2.i = s.i := by
  unfold State.takeTicks; split <;> rfl

@[simp] theorem State.takeTicks_stack (s : State) : s.takeTicks.2.stack = s.stack := by
  unfold State.takeTicks; split <;> rfl

@[simp] theorem State.takeTicks_sp (s : State) : s.takeTicks.2.sp = s.sp := by
  unfold State.takeTicks; split <;> rfl

@[simp] theorem State.takeTicks_mem (s : State) : s.takeTicks.2.mem = s.mem := by
  unfold State.takeTicks; split <;> rfl

@[simp] theorem State.takeTicks_fault (s : State) : s.takeTicks.2.fault = s.fault := by
  unfold State.takeTicks; split <;> rfl

@[simp] theorem State.takeTicks_faultPc (s : State) : s.takeTicks.2.faultPc = s.faultPc := by
  unfold State.takeTicks; split <;> rfl

@[simp] theorem State.takeTicks_faultWord (s : State) : s.takeTicks.2.faultWord = s.faultWord := by
  unfold State.takeTicks; split <;> rfl

@[simp] theorem State.takeTicks_params (s : State) : s.takeTicks.2.params = s.params := by
  unfold State.takeTicks; split <;> rfl

@[simp] theorem State.takeTicks_env_dt (s : State) : s.takeTicks.2.env.dt = s.env.dt := by
  unfold State.takeTicks; split <;> rfl

@[simp] theorem State.takeTicks_env_st (s : State) : s.takeTicks.2.env.st = s.env.st := by
  unfold State.takeTicks; split <;> rfl

@[simp] theorem State.takeTicks_env_trace (s : State) : s.takeTicks.2.env.trace = s.env.trace := by
  unfold State.takeTicks; split <;> rfl

/-! ### rngNext -/

@[simp] theorem State.rngNext_v (s : State) : s.rngNext.2.v = s.v := by
  simp [State.rngNext]

@[simp] theorem State.rngNext_pc (s : State) : s.rngNext.2.pc = s.pc := by
  simp [State.rngNext]

@[simp] theorem State.rngNext_i (s : State) : s.rngNext.2.i = s.i := by
  simp [State.rngNext]

@[simp] theorem State.rngNext_stack (s : State) : s.rngNext.2.stack = s.stack := by
  simp [State.rngNext]

@[simp] theorem State.rngNext_sp (s : State) : s.rngNext.2.sp = s.sp := by
  simp [State.rngNext]

@[simp] theorem State.rngNext_mem (s : State) : s.rngNext.2.mem = s.mem := by
  simp [State.rngNext]

@[simp] theorem State.rngNext_fault (s : State) : s.rngNext.2.fault = s.fault := by
  simp [State.rngNext]

@[simp] theorem State.rngNext_faultPc (s : State) : s.rngNext.2.faultPc = s.faultPc := by
  simp [State.rngNext]

@[simp] theorem State.rngNext_faultWord (s : State) : s.rngNext.2.faultWord = s.faultWord := by
  simp [State.rngNext]

@[simp] theorem State.rngNext_params (s : State) : s.rngNext.2.params = s.params := by
  simp [State.rngNext]

@[simp] theorem State.rngNext_env_dt (s : State) : s.rngNext.2.env.dt = s.env.dt := by
  simp [State.rngNext]

@[simp] theorem State.rngNext_env_st (s : State) : s.rngNext.2.env.st = s.env.st := by
  simp [State.rngNext]

@[simp] theorem State.rngNext_readV (s : State) (q : Nibble) : s.rngNext.2.readV q = s.readV q := by
  simp [State.readV]

@[simp] theorem State.rngNext_byte (s : State) (a : Nat) : s.rngNext.2.byte a = s.byte a := by
  simp [State.byte]

@[simp] theorem State.rngNext_halted (s : State) : s.rngNext.2.halted = s.halted := by
  simp [State.halted]

@[simp] theorem State.rngNext_trace (s : State) : s.rngNext.2.env.trace = s.env.trace ++ [.randomByte s.rngNext.1] := by
  simp [State.rngNext]

/-! ### isPressed -/

@[simp] theorem State.isPressed_v (k : Byte) (s : State) : (s.isPressed k).2.v = s.v := by
  simp [State.isPressed]

@[simp] theorem State.isPressed_pc (k : Byte) (s : State) : (s.isPressed k).2.pc = s.pc := by
  simp [State.isPressed]

@[simp] theorem State.isPressed_i (k : Byte) (s : State) : (s.isPressed k).2.i = s.i := by
  simp [State.isPressed]

@[simp] theorem State.isPressed_stack (k : Byte) (s : State) : (s.isPressed k).2.stack = s.stack := by
  simp [State.isPressed]

@[simp] theorem State.isPressed_sp (k : Byte) (s : State) : (s.isPressed k).2.sp = s.sp := by
  simp [State.isPressed]

@[simp] theorem State.isPressed_mem (k : Byte) (s : State) : (s.isPressed k).2.mem = s.mem := by
  simp [State.isPressed]

@[simp] theorem State.isPressed_fault (k : Byte) (s : State) : (s.isPressed k).2.fault = s.fault := by
  simp [State.isPressed]

@[simp] theorem State.isPressed_faultPc (k : Byte) (s : State) : (s.isPressed k).2.faultPc = s.faultPc := by
  simp [State.isPressed]

@[simp] theorem State.isPressed_faultWord (k : Byte) (s : State) : (s.isPressed k).2.faultWord = s.faultWord := by
  simp [State.isPressed]

@[simp] theorem State.isPressed_params (k : Byte) (s : State) : (s.isPressed k).2.params = s.params := by
  simp [State.isPressed]

@[simp] theorem State.isPressed_env_dt (k : Byte) (s : State) : (s.isPressed k).2.env.dt = s.env.dt := by
  simp [State.isPressed]

@[simp] theorem State.isPressed_env_st (k : Byte) (s : State) : (s.isPressed k).2.env.st = s.env.st := by
  simp [State.isPressed]

@[simp] theorem State.isPressed_readV (k : Byte) (s : State) (q : Nibble) : (s.isPressed k).2.readV q = s.readV q := by
  simp [State.readV]

@[simp] theorem State.isPressed_byte (k : Byte) (s : State) (a : Nat) : (s.isPressed k).2.byte a = s.byte a := by
  simp [State.byte]

@[simp] theorem State.isPressed_halted (k : Byte) (s : State) : (s.isPressed k).2.halted = s.halted := by
  simp [State.halted]

@[simp] theorem State.isPressed_trace (k : Byte) (s : State) : (s.isPressed k).2.env.trace = s.env.trace ++ [.isPressed k (s.isPressed k).1] := by
  simp [State.isPressed]

/-! ### drawSprite -/

@[simp] theorem State.drawSprite_v (x y : Byte) (bytes : List Byte) (s : State) : (s.drawSprite x y bytes).2.v = s.v := by
  simp [State.drawSprite]

@[simp] theorem State.drawSprite_pc (x y : Byte) (bytes : List Byte) (s : State) : (s.drawSprite x y bytes).2.pc = s.pc := by
  simp [State.drawSprite]

@[simp] theorem State.drawSprite_i (x y : Byte) (bytes : List Byte) (s : State) : (s.drawSprite x y bytes).2.i = s.i := by
  simp [State.drawSprite]

@[simp] theorem State.drawSprite_stack (x y : Byte) (bytes : List Byte) (s : State) : (s.drawSprite x y bytes).2.stack = s.stack := by
  simp [State.drawSprite]

@[simp] theorem State.drawSprite_sp (x y : Byte) (bytes : List Byte) (s : State) : (s.drawSprite x y bytes).2.sp = s.sp := by
  simp [State.drawSprite]

@[simp] theorem State.drawSprite_mem (x y : Byte) (bytes : List Byte) (s : State) : (s.drawSprite x y bytes).2.mem = s.mem := by
  simp [State.drawSprite]

@[simp] theorem State.drawSprite_fault (x y : Byte) (bytes : List Byte) (s : State) : (s.drawSprite x y bytes).2.fault = s.fault := by
  simp [State.drawSprite]

@[simp] theorem State.drawSprite_faultPc (x y : Byte) (bytes : List Byte) (s : State) : (s.drawSprite x y bytes).2.faultPc = s.faultPc := by
  simp [State.drawSprite]

@[simp] theorem State.drawSprite_faultWord (x y : Byte) (bytes : List Byte) (s : State) : (s.drawSprite x y bytes).2.faultWord = s.faultWord := by
  simp [State.drawSprite]

@[simp] theorem State.drawSprite_params (x y : Byte) (bytes : List Byte) (s : State) : (s.drawSprite x y bytes).2.params = s.params := by
  simp [State.drawSprite]

@[simp] theorem State.drawSprite_env_dt (x y : Byte) (bytes : List Byte) (s : State) : (s.drawSprite x y bytes).2.env.dt = s.env.dt := by
  simp [State.drawSprite]

@[simp] theorem State.drawSprite_env_st (x y : Byte) (bytes : List Byte) (s : State) : (s.drawSprite x y bytes).2.env.st = s.env.st := by
  simp [State.drawSprite]

@[simp] theorem State.drawSprite_readV (x y : Byte) (bytes : List Byte) (s : State) (q : Nibble) : (s.drawSprite x y bytes).2.readV q = s.readV q := by
  simp [State.readV]

@[simp] theorem State.drawSprite_byte (x y : Byte) (bytes : List Byte) (s : State) (a : Nat) : (s.drawSprite x y bytes).2.byte a = s.byte a := by
  simp [State.byte]

@[simp] theorem State.drawSprite_halted (x y : Byte) (bytes : List Byte) (s : State) : (s.drawSprite x y bytes).2.halted = s.halted := by
  simp [State.halted]

@[simp] theorem State.drawSprite_trace (x y : Byte) (bytes : List Byte) (s : State) : (s.drawSprite x y bytes).2.env.trace = s.env.trace ++ [.drawSprite x y bytes (s.drawSprite x y bytes).1] := by
  simp [State.drawSprite]

/-! ### getDelay -/

@[simp] theorem State.getDelay_v (s : State) : s.getDelay.2.v = s.v := by
  simp [State.getDelay]

@[simp] theorem State.getDelay_pc (s : State) : s.getDelay.2.pc = s.pc := by
  simp [State.getDelay]

@[simp] theorem State.getDelay_i (s : State) : s.getDelay.2.i = s.i := by
  simp [State.getDelay]

@[simp] theorem State.getDelay_stack (s : State) : s.getDelay.2.stack = s.stack := by
  simp [State.getDelay]

@[simp] theorem State.getDelay_sp (s : State) : s.getDelay.2.sp = s.sp := by
  simp [State.getDelay]

@[simp] theorem State.getDelay_mem (s : State) : s.getDelay.2.mem = s.mem := by
  simp [State.getDelay]

@[simp] theorem State.getDelay_fault (s : State) : s.getDelay.2.fault = s.fault := by
  simp [State.getDelay]

@[simp] theorem State.getDelay_faultPc (s : State) : s.getDelay.2.faultPc = s.faultPc := by
  simp [State.getDelay]

@[simp] theorem State.getDelay_faultWord (s : State) : s.getDelay.2.faultWord = s.faultWord := by
  simp [State.getDelay]

@[simp] theorem State.getDelay_params (s : State) : s.getDelay.2.params = s.params := by
  simp [State.getDelay]

@[simp] theorem State.getDelay_env_dt (s : State) : s.getDelay.2.env.dt = s.env.dt := by
  simp [State.getDelay]

@[simp] theorem State.getDelay_env_st (s : State) : s.getDelay.2.env.st = s.env.st := by
  simp [State.getDelay]

@[simp] theorem State.getDelay_readV (s : State) (q : Nibble) : s.getDelay.2.readV q = s.readV q := by
  simp [State.readV]

@[simp] theorem State.getDelay_byte (s : State) (a : Nat) : s.getDelay.2.byte a = s.byte a := by
  simp [State.byte]

@[simp] theorem State.getDelay_halted (s : State) : s.getDelay.2.halted = s.halted := by
  simp [State.halted]

@[simp] theorem State.getDelay_trace (s : State) : s.getDelay.2.env.trace = s.env.trace ++ [.getDelay s.env.dt] := by
  simp [State.getDelay]

/-! ### betweenSteps -/

@[simp] theorem State.betweenSteps_v (s : State) : s.betweenSteps.v = s.v := by
  simp [State.betweenSteps, Env.tick]

@[simp] theorem State.betweenSteps_pc (s : State) : s.betweenSteps.pc = s.pc := by
  simp [State.betweenSteps, Env.tick]

@[simp] theorem State.betweenSteps_i (s : State) : s.betweenSteps.i = s.i := by
  simp [State.betweenSteps, Env.tick]

@[simp] theorem State.betweenSteps_stack (s : State) : s.betweenSteps.stack = s.stack := by
  simp [State.betweenSteps, Env.tick]

@[simp] theorem State.betweenSteps_sp (s : State) : s.betweenSteps.sp = s.sp := by
  simp [State.betweenSteps, Env.tick]

@[simp] theorem State.betweenSteps_mem (s : State) : s.betweenSteps.mem = s.mem := by
  simp [State.betweenSteps, Env.tick]

@[simp] theorem State.betweenSteps_fault (s : State) : s.betweenSteps.fault = s.fault := by
  simp [State.betweenSteps, Env.tick]

@[simp] theorem State.betweenSteps_faultPc (s : State) : s.betweenSteps.faultPc = s.faultPc := by
  simp [State.betweenSteps, Env.tick]

@[simp] theorem State.betweenSteps_faultWord (s : State) : s.betweenSteps.faultWord = s.faultWord := by
  simp [State.betweenSteps, Env.tick]

@[simp] theorem State.betweenSteps_params (s : State) : s.betweenSteps.params = s.params := by
  simp [State.betweenSteps, Env.tick]

@[simp] theorem State.betweenSteps_readV (s : State) (q : Nibble) : s.betweenSteps.readV q = s.readV q := by
  simp [State.readV]

@[simp] theorem State.betweenSteps_byte (s : State) (a : Nat) : s.betweenSteps.byte a = s.byte a := by
  simp [State.byte]

@[simp] theorem State.betweenSteps_halted (s : State) : s.betweenSteps.halted = s.halted := by
  simp [State.halted]

@[simp] theorem State.betweenSteps_trace (s : State) : s.betweenSteps.env.trace = s.env.trace := by
  simp [State.betweenSteps, Env.tick]

/-! ### Queued answers (R10) -/

theorem State.rngNext_queued {s : State} {b : Byte} {rest : List Byte} (h : s.env.randoms = b :: rest) :
    s.rngNext.1 = b := by
  simp [State.rngNext, State.takeRandom, h]

theorem State.isPressed_queued {s : State} {p : Bool} {rest : List Bool} (k : Byte) (h : s.env.presses = p :: rest) :
    (s.isPressed k).1 = p := by
  simp [State.isPressed, State.takePressed, h]

theorem State.drawSprite_queued {s : State} {c : Bool} {rest : List Bool} (x y : Byte) (bytes : List Byte)
    (h : s.env.collisions = c :: rest) : (s.drawSprite x y bytes).1 = c := by
  simp [State.drawSprite, State.takeCollided, h]

/-! ### Ticks (R31, R182) -/

theorem tickTimer_toNat (b : Byte) : (tickTimer b).toNat = b.toNat - 1 := by
  unfold tickTimer
  split
  · rw [BitVec.toNat_sub_of_le (by rw [BitVec.le_def]; simpa using by omega)]; rfl
  · simp; omega

/-- `n` ticks take a timer down by `n`, and no further than zero. -/
theorem tickTimes_toNat (n : Nat) (b : Byte) : (tickTimes n b).toNat = b.toNat - n := by
  induction n generalizing b with
  | zero => rfl
  | succ n ih => rw [tickTimes, ih, tickTimer_toNat]; omega

theorem State.takeTicks_queued {s : State} {n : Ticks} {rest : List Ticks} (h : s.env.ticks = n :: rest) :
    s.takeTicks.1 = n := by
  simp [State.takeTicks, h]

/-- The delay timer between two steps goes down by its own number of decrements. -/
theorem State.betweenSteps_dt_toNat (s : State) :
    s.betweenSteps.env.dt.toNat = s.env.dt.toNat - s.takeTicks.1.delay := by
  simp [State.betweenSteps, Env.tick, tickTimes_toNat]

/-- The sound timer between two steps goes down by its own number of decrements. -/
theorem State.betweenSteps_st_toNat (s : State) :
    s.betweenSteps.env.st.toNat = s.env.st.toNat - s.takeTicks.1.sound := by
  simp [State.betweenSteps, Env.tick, tickTimes_toNat]

end Sys2Proof.Machine
end

