-- ==== Sys2Proof/Tests/Slice0.lean ====
section
/-! SUPPORT. The model's own tests: the launch checks, one word per constructor written bit by bit from the patterns of R80,
single steps with the expected values of 95_test_vectors.md, and a witness for the hypotheses of every statement that has
some, at the boundary values of its clauses. -/

namespace Sys2Proof.Machine.Tests

open Sys2Proof Sys2Proof.Machine

set_option Elab.async false

/-! ### Helpers -/

/-- The machine after reset with `pc` at an address. -/
def atPc (a : Addr) : State := State.reset.jumpTo a

/-- The same with the environment's answers queued. -/
def answering (randoms : List Byte) (presses collisions : List Bool) (s : State) : State :=
  { s with env := { s.env with randoms := randoms, presses := presses, collisions := collisions } }

/-- The outcome is a next state of which the test holds. -/
def nextHas (r : Result) (test : State → Bool) : Bool :=
  match r with
  | .next t => test t
  | .fault _ => false
  | .refused _ => false

/-- The fault latch of a state that reports `k` at `pc` with the word `w`, `pc` unmoved. -/
def latched (k : FaultKind) (a : Addr) (w : Word) (t : State) : Bool :=
  t.fault == k && t.faultPc == a && t.faultWord == w && t.pc == a

/-- `pc` at an address, with no fault. -/
def cleanAt (a : Addr) (t : State) : Bool := t.pc == a && t.fault == .none

/-- The word decodes to the instruction. -/
def decodesTo (w : Word) (i : Instr) : Bool :=
  match decode w with
  | .ok j => j == i
  | .error _ => false

/-- The word is rejected for that reason. -/
def rejects (w : Word) (r : Reject) : Bool :=
  match decode w with
  | .ok _ => false
  | .error q => q == r

theorem decode_of_decodesTo {w : Word} {i : Instr} (h : decodesTo w i = true) : decode w = .ok i := by
  unfold decodesTo at h
  split at h
  · next j hj => rw [hj, eq_of_beq h]
  · exact absurd h (by decide)

theorem ne_ok_of_rejects {w : Word} {r : Reject} (h : rejects w r = true) (i : Instr) : decode w ≠ .ok i := by
  intro he
  rw [rejects, he] at h
  exact Bool.noConfusion h

/-! ### Well-formedness: one refused term per check (Z9, Z10 of 95_test_vectors.md; R202) -/

theorem test_image_3584_accepted : imageFits 0x200 (List.replicate 3584 0) = true := by
  rw [imageFits, List.length_replicate]; decide

theorem test_image_3585_refused : imageFits 0x200 (List.replicate 3585 0) = false := by
  rw [imageFits, List.length_replicate]; decide

theorem test_glyphs_accepted : glyphsFit conventionalParams = true := by decide +kernel

/-- Five glyph bytes at 0xFFC do not fit. -/
theorem test_glyph_beyond_memory_refused :
    glyphsFit { conventionalParams with glyphAddr := conventionalGlyphAddr.set 15 0xFFC } = false := by decide +kernel

theorem test_glyph_up_to_the_end_accepted :
    glyphsFit { conventionalParams with glyphAddr := conventionalGlyphAddr.set 15 0xFFB } = true := by decide +kernel

theorem test_launch_refused : launchWellFormed conventionalParams (List.replicate 3585 0) = false := by
  rw [launchWellFormed, imageFits, List.length_replicate]; decide

theorem test_launch_accepted : launchWellFormed conventionalParams [0x60, 0x12, 0x12] = true := by decide +kernel

/-! ### Decoding: a word of every row, bit by bit from its pattern in R80 -/

theorem test_decode_00E0 : decodesTo 0b0000000011100000#16 .op00E0 = true := by decide
theorem test_decode_00EE : decodesTo 0b0000000011101110#16 .op00EE = true := by decide
theorem test_decode_1NNN : decodesTo 0b0001110010100110#16 (.op1NNN 0xCA6) = true := by decide
theorem test_decode_2NNN : decodesTo 0b0010110111011011#16 (.op2NNN 0xDDB) = true := by decide
theorem test_decode_3XNN : decodesTo 0b0011000110000110#16 (.op3XNN 0x1 0x86) = true := by decide
theorem test_decode_4XNN : decodesTo 0b0100010010010001#16 (.op4XNN 0x4 0x91) = true := by decide
theorem test_decode_5XY0 : decodesTo 0b0101011111000000#16 (.op5XY0 0x7 0xC) = true := by decide
theorem test_decode_6XNN : decodesTo 0b0110101010100111#16 (.op6XNN 0xA 0xA7) = true := by decide
theorem test_decode_7XNN : decodesTo 0b0111110110110010#16 (.op7XNN 0xD 0xB2) = true := by decide
theorem test_decode_8XY0 : decodesTo 0b1000000000010000#16 (.op8XY0 0x0 0x1) = true := by decide
theorem test_decode_8XY1 : decodesTo 0b1000001110000001#16 (.op8XY1 0x3 0x8) = true := by decide
theorem test_decode_8XY2 : decodesTo 0b1000011011110010#16 (.op8XY2 0x6 0xF) = true := by decide
theorem test_decode_8XY3 : decodesTo 0b1000100101100011#16 (.op8XY3 0x9 0x6) = true := by decide
theorem test_decode_8XY4 : decodesTo 0b1000110011010100#16 (.op8XY4 0xC 0xD) = true := by decide
theorem test_decode_8XY5 : decodesTo 0b1000111101000101#16 (.op8XY5 0xF 0x4) = true := by decide
theorem test_decode_8XY6 : decodesTo 0b1000001010110110#16 (.op8XY6 0x2 0xB) = true := by decide
theorem test_decode_8XY7 : decodesTo 0b1000010100100111#16 (.op8XY7 0x5 0x2) = true := by decide
theorem test_decode_8XYE : decodesTo 0b1000100010011110#16 (.op8XYE 0x8 0x9) = true := by decide
theorem test_decode_9XY0 : decodesTo 0b1001101100000000#16 (.op9XY0 0xB 0x0) = true := by decide
theorem test_decode_ANNN : decodesTo 0b1010000100101011#16 (.opANNN 0x12B) = true := by decide
theorem test_decode_BNNN : decodesTo 0b1011001001100000#16 (.opBNNN 0x260) = true := by decide
theorem test_decode_CXNN : decodesTo 0b1100010001000001#16 (.opCXNN 0x4 0x41) = true := by decide
theorem test_decode_DXYN : decodesTo 0b1101011111001111#16 (.opDXYN 0x7 0xC 0xF) = true := by decide
theorem test_decode_EX9E : decodesTo 0b1110101010011110#16 (.opEX9E 0xA) = true := by decide
theorem test_decode_EXA1 : decodesTo 0b1110110110100001#16 (.opEXA1 0xD) = true := by decide
theorem test_decode_FX07 : decodesTo 0b1111000000000111#16 (.opFX07 0x0) = true := by decide
theorem test_decode_FX15 : decodesTo 0b1111001100010101#16 (.opFX15 0x3) = true := by decide
theorem test_decode_FX18 : decodesTo 0b1111011000011000#16 (.opFX18 0x6) = true := by decide
theorem test_decode_FX1E : decodesTo 0b1111100100011110#16 (.opFX1E 0x9) = true := by decide
theorem test_decode_FX29 : decodesTo 0b1111110000101001#16 (.opFX29 0xC) = true := by decide
theorem test_decode_FX33 : decodesTo 0b1111111100110011#16 (.opFX33 0xF) = true := by decide
theorem test_decode_FX55 : decodesTo 0b1111001001010101#16 (.opFX55 0x2) = true := by decide
theorem test_decode_FX65 : decodesTo 0b1111010101100101#16 (.opFX65 0x5) = true := by decide

/-! ### Rejected words (E11 to E25) and byte lists -/

theorem test_reject_class0 : (rejects 0x0000 .invalidClass0 && rejects 0x00E1 .invalidClass0 &&
    rejects 0x01E0 .invalidClass0 && rejects 0x0FEE .invalidClass0 && rejects 0x0123 .invalidClass0) = true := by decide

theorem test_reject_class5_class9 :
    (rejects 0x5AB1 .invalidClass5 && rejects 0x9ABF .invalidClass9) = true := by decide

theorem test_reject_class8 : (rejects 0x8AB8 .invalidClass8 && rejects 0x8ABF .invalidClass8) = true := by decide

theorem test_reject_classE : (rejects 0xE09F .invalidClassE && rejects 0xE0A0 .invalidClassE) = true := by decide

theorem test_reject_classF : (rejects 0xF00A .invalidClassF && rejects 0xF075 .invalidClassF &&
    rejects 0xFFFF .invalidClassF && rejects 0xF000 .invalidClassF) = true := by decide

theorem test_decodeBytes_keeps_the_rest :
    decodeBytes [0x6A, 0x3C, 0x12] = .ok (.op6XNN 0xA 0x3C, [0x12]) := by rfl

theorem test_decodeBytes_one_byte : decodeBytes [0x6A] = .error .truncated := by rfl

theorem test_decodeTableWord : decodeTableWord 16 0x6A3C = some (.op6XNN 0xA 0x3C) := by decide

theorem test_decodeTableWord_invalid : decodeTableWord 16 0xF00A = none := by decide

theorem test_encode_draw : encode (.opDXYN 0xA 0xB 0x5) = 0xDAB5 := by decide

/-! ### Control transfer -/

/-- F5 -/
theorem test_return : nextHas (exec .op00EE ((atPc 0x300).push 0x202 |>.getD State.reset))
    (fun t => cleanAt 0x202 t && t.sp.val == 0) = true := by decide

/-- F6 -/
theorem test_return_empty : nextHas (exec .op00EE (atPc 0x200)) (latched .stackUnderflow 0x200 0x00EE) = true := by decide

/-- F1 -/
theorem test_jump : nextHas (exec (.op1NNN 0xABC) (atPc 0x200)) (cleanAt 0xABC) = true := by decide

/-- F10 -/
theorem test_jump_at_the_end : nextHas (exec (.op1NNN 0x234) (atPc 0xFFE)) (cleanAt 0x234) = true := by decide

/-- F4 -/
theorem test_call : nextHas (exec (.op2NNN 0x300) (atPc 0x200))
    (fun t => cleanAt 0x300 t && t.sp.val == 1 && t.stack[0] == 0x202) = true := by decide

/-- F9: OutOfBounds comes before StackOverflow. -/
theorem test_call_at_the_end : nextHas (exec (.op2NNN 0x234) { atPc 0xFFE with sp := 16 })
    (latched .outOfBounds 0xFFE 0x2234) = true := by decide

/-- F14 -/
theorem test_indexed_jump : nextHas (exec (.opBNNN 0x301) (((atPc 0x200).writeV 0 4).writeV 3 0x77)) (cleanAt 0x305) = true := by
  decide

/-- F13 -/
theorem test_indexed_jump_beyond : nextHas (exec (.opBNNN 0xF01) ((atPc 0x200).writeV 0 0xFF))
    (latched .outOfBounds 0x200 0xBF01) = true := by decide

/-! ### Skips -/

/-- K1 -/
theorem test_skip_equal : nextHas (exec (.op3XNN 0xA 0x3C) ((atPc 0x202).writeV 0xA 0x3C)) (cleanAt 0x206) = true := by decide

/-- K13 -/
theorem test_skip_beyond : nextHas (exec (.op3XNN 0 0) (atPc 0xFFC)) (latched .outOfBounds 0xFFC 0x3000) = true := by decide

/-- K3 -/
theorem test_skip_unequal_not_taken :
    nextHas (exec (.op4XNN 0xA 0x3C) ((atPc 0x202).writeV 0xA 0x3C)) (cleanAt 0x204) = true := by decide

/-- K4 -/
theorem test_skip_unequal_taken :
    nextHas (exec (.op4XNN 0xA 0xFF) ((atPc 0x202).writeV 0xA 0x3C)) (cleanAt 0x206) = true := by decide

/-- K5 -/
theorem test_skip_registers_equal :
    nextHas (exec (.op5XY0 1 2) (((atPc 0x200).writeV 1 7).writeV 2 7)) (cleanAt 0x204) = true := by decide

/-- K6 -/
theorem test_skip_registers_equal_not_taken :
    nextHas (exec (.op5XY0 1 2) (((atPc 0x200).writeV 1 7).writeV 2 8)) (cleanAt 0x202) = true := by decide

/-- K8 -/
theorem test_skip_registers_unequal :
    nextHas (exec (.op9XY0 1 2) (((atPc 0x200).writeV 1 7).writeV 2 8)) (cleanAt 0x204) = true := by decide

/-- K9 -/
theorem test_skip_registers_unequal_not_taken :
    nextHas (exec (.op9XY0 1 2) (((atPc 0x200).writeV 1 7).writeV 2 7)) (cleanAt 0x202) = true := by decide

/-! ### ALU: V1, V2 and VF before, then V1 and VF after -/

/-- `pc` at 0x200 with two operands and a flag. -/
def aluState (a b f : Byte) : State := (((atPc 0x200).writeV 1 a).writeV 2 b).writeV 0xF f

/-- V1 and VF after, with `pc` moved by 2. -/
def aluGives (a f : Byte) (t : State) : Bool := t.readV 1 == a && t.readV 0xF == f && cleanAt 0x202 t

/-- A1 -/
theorem test_load_immediate : nextHas (exec (.op6XNN 0xA 0x3C) (atPc 0x200))
    (fun t => t.readV 0xA == 0x3C && cleanAt 0x202 t) = true := by decide

/-- Z4: the register is written, then the `pc` update faults. -/
theorem test_load_immediate_at_the_end : nextHas (exec (.op6XNN 0 0x12) (atPc 0xFFE))
    (fun t => t.readV 0 == 0x12 && latched .outOfBounds 0xFFE 0x6012 t) = true := by decide

/-- A3 -/
theorem test_add_immediate_wraps : nextHas (exec (.op7XNN 3 5) ((atPc 0x200).writeV 3 0xFE))
    (fun t => t.readV 3 == 3 && t.readV 0xF == 0) = true := by decide

/-- A6 -/
theorem test_move : nextHas (exec (.op8XY0 1 2) (aluState 0 0x77 0)) (aluGives 0x77 0) = true := by decide

/-- A7 -/
theorem test_or_keeps_flag : nextHas (exec (.op8XY1 1 2) (aluState 0xCA 0x0F 1)) (aluGives 0xCF 1) = true := by decide

/-- A8 -/
theorem test_and : nextHas (exec (.op8XY2 1 2) (aluState 0xCA 0x0F 1)) (aluGives 0x0A 1) = true := by decide

/-- A8b -/
theorem test_xor : nextHas (exec (.op8XY3 1 2) (aluState 0xCA 0x0F 1)) (aluGives 0xC5 1) = true := by decide

/-- X12: no flag write at all. -/
theorem test_xor_flag_register : nextHas (exec (.op8XY3 0xF 0xF) (aluState 0 0 0x80)) (aluGives 0 0) = true := by decide

/-- S1a -/
theorem test_add_carry : nextHas (exec (.op8XY4 1 2) (aluState 0xC8 0x64 0)) (aluGives 0x2C 1) = true := by decide

/-- X1: with X = 0xF the flag stays. -/
theorem test_add_flag_register : nextHas (exec (.op8XY4 0xF 1) (aluState 2 0 0xFF)) (aluGives 2 1) = true := by decide

/-- S2b -/
theorem test_sub_borrow : nextHas (exec (.op8XY5 1 2) (aluState 5 0xA 1)) (aluGives 0xFB 0) = true := by decide

/-- X4: with X = 0xF the difference stays. -/
theorem test_sub_flag_register : nextHas (exec (.op8XY5 0xF 1) (aluState 3 0 5)) (aluGives 3 2) = true := by decide

/-- A19: V2 is ignored. -/
theorem test_shift_right : nextHas (exec (.op8XY6 1 2) (aluState 4 0xFF 1)) (aluGives 2 0) = true := by decide

/-- X7 -/
theorem test_shift_right_flag_register : nextHas (exec (.op8XY6 0xF 0) (aluState 0 0 3)) (aluGives 0 1) = true := by decide

/-- A21 -/
theorem test_subn_borrow : nextHas (exec (.op8XY7 1 2) (aluState 0xA 5 1)) (aluGives 0xFB 0) = true := by decide

/-- X9 -/
theorem test_subn_flag_register : nextHas (exec (.op8XY7 0xF 1) (aluState 5 0 3)) (aluGives 5 2) = true := by decide

/-- A25: VF is 1, not 0x80. -/
theorem test_shift_left : nextHas (exec (.op8XYE 1 0) (aluState 0xFF 0 0)) (aluGives 0xFE 1) = true := by decide

/-- X8 -/
theorem test_shift_left_flag_register : nextHas (exec (.op8XYE 0xF 0) (aluState 0 0 0x81)) (aluGives 0 2) = true := by decide

/-! ### Index register, loads and stores -/

/-- M1 -/
theorem test_load_index : nextHas (exec (.opANNN 0x2F0) (atPc 0x200)) (fun t => t.i == 0x2F0 && cleanAt 0x202 t) = true := by
  decide

/-- M3 -/
theorem test_add_index : nextHas (exec (.opFX1E 0) (((atPc 0x200).setI 0xF00).writeV 0 0xFF))
    (fun t => t.i == 0xFFF && t.readV 0xF == 0 && cleanAt 0x202 t) = true := by decide

/-- M4 -/
theorem test_add_index_beyond : nextHas (exec (.opFX1E 0) (((atPc 0x200).setI 0xFFF).writeV 0 1))
    (fun t => t.i == 0xFFF && latched .outOfBounds 0x200 0xF01E t) = true := by decide

/-- M5 -/
theorem test_font_address : nextHas (exec (.opFX29 4) ((atPc 0x200).writeV 4 0xA))
    (fun t => t.i == 0x032 && cleanAt 0x202 t) = true := by decide

/-- The bytes at an address and after it. -/
def bytesAt (a n : Nat) (t : State) : List Byte := (List.range n).map fun k => t.byte (a + k)

/-- M8 -/
theorem test_decimal : nextHas (exec (.opFX33 0) (((atPc 0x200).setI 0xFFD).writeV 0 0xFF))
    (fun t => bytesAt 0xFFD 3 t == [2, 5, 5] && cleanAt 0x202 t) = true := by decide +kernel

/-- M12: the bytes below the end stay written. -/
theorem test_decimal_beyond : nextHas (exec (.opFX33 0) (((atPc 0x200).setI 0xFFE).writeV 0 0xFF))
    (fun t => bytesAt 0xFFE 2 t == [2, 5] && latched .outOfBounds 0x200 0xF033 t) = true := by decide +kernel

/-- V0, V1, V2, V3 = 11, 22, 33, 44. -/
def blockState : State := (((State.reset.writeV 0 0x11).writeV 1 0x22).writeV 2 0x33).writeV 3 0x44

/-- M13 -/
theorem test_store_block : nextHas (exec (.opFX55 2) (blockState.setI 0x400))
    (fun t => bytesAt 0x400 4 t == [0x11, 0x22, 0x33, 0] && t.i == 0x400 && cleanAt 0x202 t) = true := by decide +kernel

/-- M15 -/
theorem test_store_block_beyond : nextHas (exec (.opFX55 2) (blockState.setI 0xFFE))
    (fun t => bytesAt 0xFFE 2 t == [0x11, 0x22] && latched .outOfBounds 0x200 0xF255 t) = true := by decide +kernel

/-- M17 -/
theorem test_load_block :
    nextHas (exec (.opFX65 2) ((((State.reset.writeV 3 0x99).setI 0x400)).placeBytes 0x400 [0x11, 0x22, 0x33, 0x44]))
      (fun t => t.readV 0 == 0x11 && t.readV 1 == 0x22 && t.readV 2 == 0x33 && t.readV 3 == 0x99 && cleanAt 0x202 t)
      = true := by decide +kernel

/-- M18 -/
theorem test_load_block_beyond : nextHas (exec (.opFX65 2) ((blockState.setI 0xFFE).placeBytes 0xFFE [0xAA, 0xBB]))
    (fun t => t.readV 0 == 0xAA && t.readV 1 == 0xBB && t.readV 2 == 0x33 && latched .outOfBounds 0x200 0xF265 t)
    = true := by decide +kernel

/-! ### Ports -/

/-- P1 -/
theorem test_clear : nextHas (exec .op00E0 (atPc 0x200)) (fun t => t.env.trace == [.clear] && cleanAt 0x202 t) = true := by
  decide

/-- P2 -/
theorem test_random_masked : nextHas (exec (.opCXNN 3 0x0F) (answering [0xA7] [] [] (atPc 0x200)))
    (fun t => t.readV 3 == 7 && t.env.randoms.isEmpty && cleanAt 0x202 t) = true := by decide

/-- P3, for every answer: nothing queued, so the byte is free. -/
theorem test_random_zero_mask : nextHas (exec (.opCXNN 3 0) ((atPc 0x200).writeV 3 0x55)) (fun t => t.readV 3 == 0) = true := by
  simp [nextHas, exec, execCXNN, State.rngNext, State.takeRandom, atPc, State.jumpTo, State.writeV, State.reset, Env.quiet,
    State.emit, State.advance, State.setPc, conventionalParams, State.readV, Config.memSize]

/-- P5 -/
theorem test_draw :
    nextHas (exec (.opDXYN 1 2 3) (answering [] [] [true]
      (((((atPc 0x200).writeV 1 0xA).writeV 2 5).setI 0x300).placeBytes 0x300 [0xF0, 0x90, 0xF0])))
      (fun t => t.readV 0xF == 1 && t.env.trace == [.drawSprite 0xA 5 [0xF0, 0x90, 0xF0] true] && cleanAt 0x202 t)
      = true := by decide +kernel

/-- P9: no transaction. -/
theorem test_draw_beyond : nextHas (exec (.opDXYN 0 1 2) ((atPc 0x200).setI 0xFFF))
    (fun t => t.env.trace == [] && latched .outOfBounds 0x200 0xD012 t) = true := by decide +kernel

/-- P12 -/
theorem test_skip_key_held : nextHas (exec (.opEX9E 5) (answering [] [true] [] ((atPc 0x200).writeV 5 7)))
    (fun t => t.env.trace == [.isPressed 7 true] && cleanAt 0x204 t) = true := by decide

/-- P17 -/
theorem test_skip_key_beyond : nextHas (exec (.opEX9E 5) (answering [] [false] [] (atPc 0xFFE)))
    (latched .outOfBounds 0xFFE 0xE59E) = true := by decide

/-- P14 -/
theorem test_skip_key_not_held : nextHas (exec (.opEXA1 5) (answering [] [true] [] ((atPc 0x200).writeV 5 7)))
    (cleanAt 0x202) = true := by decide

/-- P15 -/
theorem test_skip_key_not_held_taken : nextHas (exec (.opEXA1 5) (answering [] [false] [] ((atPc 0x200).writeV 5 7)))
    (cleanAt 0x204) = true := by decide

/-- P18 -/
theorem test_read_delay :
    nextHas (exec (.opFX07 3) { atPc 0x200 with env := { Env.quiet with dt := 0x2A } })
      (fun t => t.readV 3 == 0x2A && t.env.dt == 0x2A && cleanAt 0x202 t) = true := by decide

/-- P19 -/
theorem test_set_delay : nextHas (exec (.opFX15 3) ((atPc 0x200).writeV 3 0x3C))
    (fun t => t.env.dt == 0x3C && t.env.st == 0 && cleanAt 0x202 t) = true := by decide

/-- P20 -/
theorem test_set_sound : nextHas (exec (.opFX18 3) ((atPc 0x200).writeV 3 5))
    (fun t => t.env.st == 5 && t.env.dt == 0 && cleanAt 0x202 t) = true := by decide

/-! ### The step, reset and load -/

/-- Z2: an odd `pc`. -/
theorem test_step_odd_pc : nextHas (step ((atPc 0x201).placeBytes 0x201 [0x60, 0x12]))
    (fun t => t.readV 0 == 0x12 && cleanAt 0x203 t) = true := by decide +kernel

/-- Z3: no word, and FAULT_WORD is not valid. -/
theorem test_fetch_fault : nextHas (step ((atPc 0xFFF).placeBytes 0xFFF [0x12]))
    (fun t => t.fault == .outOfBounds && t.faultPc == 0xFFF && !t.faultWordValid) = true := by decide +kernel

/-- Z6: decode is judged before the `pc` update. -/
theorem test_decode_error_at_the_end : nextHas (step (atPc 0xFFE)) (latched .decodeError 0xFFE 0x0000) = true := by
  decide +kernel

/-- Z7 -/
theorem test_halted_step : step ((atPc 0x200).raise .stackUnderflow 0x00EE) =
    .fault (.halted ⟨.stackUnderflow, 0x200, 0x00EE⟩) := by rfl

/-- Two ticks of both timers between two steps, as in P7: DT goes from 7 to 5; ST stops at 0 (D15). -/
theorem test_ticks :
    (State.betweenSteps { atPc 0x200 with env := { Env.quiet with dt := 7, st := 1, ticks := [⟨2, 2⟩] } }).env =
      { Env.quiet with dt := 5 } := by decide

/-- R31: the environment decrements one timer and leaves the other alone. -/
theorem test_one_timer_alone :
    (State.betweenSteps { atPc 0x200 with env := { Env.quiet with dt := 7, st := 9, ticks := [⟨0, 3⟩] } }).env =
      { Env.quiet with dt := 7, st := 6 } := by decide

/-- `State.reset` is RESET under the family's parameters: the font needs no listed cell. -/
theorem test_reset_is_resetWith : State.reset = State.resetWith conventionalParams Env.quiet 0 := by decide +kernel

/-- G3: glyph B lies at 0x037 (P8). -/
theorem test_reset_font : bytesAt 0x037 5 State.reset = [0xE0, 0x90, 0xE0, 0x90, 0xE0] := by decide +kernel

/-- Z8: RESET of a faulted machine. -/
theorem test_reset_clears_fault : (((atPc 0xFFE).writeV 3 9).raise .outOfBounds 0x6012).doReset.fault = .none := by rfl

/-- Z11 -/
theorem test_load : ((State.reset.load [0x60, 0x12, 0x12]).map (bytesAt 0x200 4)) = some [0x60, 0x12, 0x12, 0] := by
  decide +kernel

/-- A word placed for the first step after reset runs there. -/
theorem test_withFetchWord : nextHas (step (State.reset.withFetchWord 16 0x6A3C))
    (fun t => t.readV 0xA == 0x3C && cleanAt 0x202 t) = true := by decide +kernel

/-- R170: the codes of the faults. -/
theorem test_fault_codes : [FaultKind.none, .decodeError, .stackUnderflow, .stackOverflow, .outOfBounds].map FaultKind.code =
    [0, 1, 2, 3, 4] := by decide

/-! ### Witnesses: a word of the row, and the last `pc` at which `pc + 2` is an address -/

theorem witness_LoadImmediate :
    0x6A3C#16 &&& 0xF000#16 = 0x6000#16 ∧ (atPc 0xFFD).pc.toNat + 2 < Config.memSize := by decide

theorem witness_AddImmediateWraps :
    0x73FF#16 &&& 0xF000#16 = 0x7000#16 ∧ (atPc 0xFFD).pc.toNat + 2 < Config.memSize := by decide

theorem witness_RegisterMove :
    0x8120#16 &&& 0xF00F#16 = 0x8000#16 ∧ (atPc 0xFFD).pc.toNat + 2 < Config.memSize := by decide

theorem witness_AddSetsCarry :
    0x8F14#16 &&& 0xF00F#16 = 0x8004#16 ∧ (atPc 0xFFD).pc.toNat + 2 < Config.memSize := by decide

theorem witness_SubtractSetsNoBorrow :
    0x8F15#16 &&& 0xF00F#16 = 0x8005#16 ∧ (atPc 0xFFD).pc.toNat + 2 < Config.memSize := by decide

theorem witness_ShiftRightSetsLowBit :
    0x8FA6#16 &&& 0xF00F#16 = 0x8006#16 ∧ (atPc 0xFFD).pc.toNat + 2 < Config.memSize := by decide

theorem witness_ReverseSubtractSetsNoBorrow :
    0x8F17#16 &&& 0xF00F#16 = 0x8007#16 ∧ (atPc 0xFFD).pc.toNat + 2 < Config.memSize := by decide

theorem witness_ShiftLeftSetsHighBit :
    0x8F0E#16 &&& 0xF00F#16 = 0x800E#16 ∧ (atPc 0xFFD).pc.toNat + 2 < Config.memSize := by decide

theorem witness_LoadIndex :
    0xA2F0#16 &&& 0xF000#16 = 0xA000#16 ∧ (atPc 0xFFD).pc.toNat + 2 < Config.memSize := by decide

theorem witness_ClearDisplay :
    0x00E0#16 &&& 0xFFFF#16 = 0x00E0#16 ∧ (atPc 0xFFD).pc.toNat + 2 < Config.memSize := by decide

theorem witness_ReadDelayTimer :
    0xF307#16 &&& 0xF0FF#16 = 0xF007#16 ∧ (atPc 0xFFD).pc.toNat + 2 < Config.memSize := by decide

theorem witness_SetDelayTimer :
    0xF315#16 &&& 0xF0FF#16 = 0xF015#16 ∧ (atPc 0xFFD).pc.toNat + 2 < Config.memSize := by decide

theorem witness_SetSoundTimer :
    0xF318#16 &&& 0xF0FF#16 = 0xF018#16 ∧ (atPc 0xFFD).pc.toNat + 2 < Config.memSize := by decide

theorem witness_BitwiseLogic :
    0x8121#16 &&& 0xF00F#16 = 0x8001#16 ∧ 0x8122#16 &&& 0xF00F#16 = 0x8002#16 ∧ 0x8123#16 &&& 0xF00F#16 = 0x8003#16 ∧
      (atPc 0xFFD).pc.toNat + 2 < Config.memSize := by decide

theorem witness_MaskedRandomByte :
    (answering [0xA7] [] [] (atPc 0xFFD)).pc.toNat + 2 < Config.memSize ∧
      (answering [0xA7] [] [] (atPc 0xFFD)).env.randoms = [0xA7] ∧ (0 : Byte) = 0 := by decide

/-! ### Witnesses: decoding and the step -/

theorem witness_EncodeOfDecode : decode 0x8FA6 = .ok (.op8XY6 0xF 0xA) := decode_of_decodesTo (by decide)

theorem witness_RowSelectsInstruction :
    opcodeRows[0]? = some ⟨"00E0", 0x00E0, 0xFFFF⟩ ∧ opcodeRows[32]? = some ⟨"FX65", 0xF065, 0xF0FF⟩ := by decide

theorem witness_SecondaryDispatch :
    (fieldClass 0x8AB0 = 0x8 ∧ fieldN 0x8AB0 = 0x0) ∧ (fieldClass 0x8ABE = 0x8 ∧ fieldN 0x8ABE = 0xE) ∧
      (fieldClass 0x8AB8 = 0x8 ∧ fieldN 0x8AB8 ∈ ([0x8, 0x9, 0xA, 0xB, 0xC, 0xD, 0xF] : List Nibble)) ∧
      (fieldClass 0xE19E = 0xE ∧ fieldNN 0xE19E = 0x9E) ∧ (fieldClass 0xE1A1 = 0xE ∧ fieldNN 0xE1A1 = 0xA1) ∧
      (fieldClass 0xE0A0 = 0xE ∧ fieldNN 0xE0A0 ∉ ([0x9E, 0xA1] : List Byte)) ∧
      (fieldClass 0xF165 = 0xF ∧ fieldNN 0xF165 = 0x65) ∧
      (fieldClass 0xF00A = 0xF ∧ fieldNN 0xF00A ∉ ([0x07, 0x15, 0x18, 0x1E, 0x29, 0x33, 0x55, 0x65] : List Byte)) := by
  decide

/-- A jump in the last two bytes of memory. -/
def lastWord : State := (atPc 0xFFE).placeBytes 0xFFE [0x12, 0x34]

theorem witness_StepRunsDecodedInstruction : lastWord.halted = false ∧ lastWord.pc.toNat + 1 < Config.memSize ∧
    decodeBytes [lastWord.byte lastWord.pc.toNat, lastWord.byte (lastWord.pc.toNat + 1)] = .ok (.op1NNN 0x234, []) :=
  ⟨by decide, by decide, by rfl⟩

theorem witness_BetweenStepsOnlyTicks : ∃ s : State, s.env.ticks = [⟨2, 0⟩] :=
  ⟨{ State.reset with env := { Env.quiet with ticks := [⟨2, 0⟩] } }, rfl⟩

theorem witness_FetchIsBigEndian :
    (atPc 0xFFE).pc ≠ 0xFFF ∧ (atPc 0xFFF).pc = 0xFFF ∧ (atPc 0xFFF).halted = false := by decide

theorem witness_DecodeErrorIsLatched :
    (atPc 0xFFE).halted = false ∧ (atPc 0xFFE).fetch = some 0x0000 ∧ ∀ i, decode 0x0000 ≠ .ok i :=
  ⟨by decide, by decide +kernel, ne_ok_of_rejects (r := .invalidClass0) (by decide)⟩

theorem witness_StepStopsExactlyWhenHalted :
    ((atPc 0x200).raise .decodeError 0).halted = true ∧ (atPc 0x200).halted = false := by decide

/-! ### Witnesses: control transfer and skips, where the clauses meet -/

theorem witness_ReturnPopsOrUnderflows :
    0x00EE#16 &&& 0xFFFF#16 = 0x00EE#16 ∧ (State.reset.sp.val = 0) ∧
      ({ State.reset with sp := 1 }.sp.val = (0 : Fin 16).val + 1) ∧
      ({ State.reset with sp := 16 }.sp.val = (15 : Fin 16).val + 1) := by decide

theorem witness_JumpSetsPc : 0x1ABC#16 &&& 0xF000#16 = 0x1000#16 := by decide

theorem witness_CallPushesOrFaults :
    ((atPc 0xFFD).pc.toNat + 2 < Config.memSize ∧ (atPc 0xFFD).sp.val = (0 : Fin 16).val) ∧
      ((atPc 0xFFD).pc.toNat + 2 < Config.memSize ∧ { atPc 0xFFD with sp := 15 }.sp.val = (15 : Fin 16).val) ∧
      ((atPc 0xFFD).pc.toNat + 2 < Config.memSize ∧ { atPc 0xFFD with sp := 16 }.sp.val = 16) ∧
      Config.memSize ≤ (atPc 0xFFE).pc.toNat + 2 := by decide

theorem witness_IndexedJumpAddsV0 :
    (0xF00#12).toNat + ((atPc 0x200).writeV 0 0xFF |>.readV 0).toNat < Config.memSize ∧
      Config.memSize ≤ (0xF01#12).toNat + ((atPc 0x200).writeV 0 0xFF |>.readV 0).toNat := by decide

theorem witness_SkipOnImmediate :
    ((atPc 0xFFB).pc.toNat + (if (atPc 0xFFB).readV 0 = 0 then 4 else 2) < Config.memSize) ∧
      (Config.memSize ≤ (atPc 0xFFC).pc.toNat + (if (atPc 0xFFC).readV 0 = 0 then 4 else 2)) ∧
      ((atPc 0xFFD).pc.toNat + (if (atPc 0xFFD).readV 0 = 0 then 2 else 4) < Config.memSize) ∧
      (Config.memSize ≤ (atPc 0xFFE).pc.toNat + (if (atPc 0xFFE).readV 0 = 0 then 2 else 4)) := by decide

theorem witness_SkipOnRegisters :
    ((atPc 0xFFB).pc.toNat + (if (atPc 0xFFB).readV 1 = (atPc 0xFFB).readV 2 then 4 else 2) < Config.memSize) ∧
      (Config.memSize ≤ (atPc 0xFFC).pc.toNat + (if (atPc 0xFFC).readV 1 = (atPc 0xFFC).readV 2 then 4 else 2)) ∧
      ((atPc 0xFFD).pc.toNat + (if (atPc 0xFFD).readV 1 = (atPc 0xFFD).readV 2 then 2 else 4) < Config.memSize) ∧
      (Config.memSize ≤ (atPc 0xFFE).pc.toNat + (if (atPc 0xFFE).readV 1 = (atPc 0xFFE).readV 2 then 2 else 4)) := by
  decide

theorem witness_SkipOnKey : (answering [] [true] [] (atPc 0xFFB)).pc.toNat + 4 < Config.memSize ∧
    (answering [] [true] [] (atPc 0xFFB)).env.presses = [true] := by decide

theorem witness_SkipOnKeyAtTheEnd :
    (Config.memSize ≤ (atPc 0xFFC).pc.toNat + 4 ∧ (atPc 0xFFC).pc.toNat + 2 < Config.memSize) ∧
      (Config.memSize ≤ (atPc 0xFFE).pc.toNat + 4 ∧ Config.memSize ≤ (atPc 0xFFE).pc.toNat + 2) := by decide

/-! ### Witnesses: the index register, loads and stores, at the end of memory -/

theorem witness_AddToIndex :
    ((((atPc 0xFFD).setI 0xF00).writeV 0 0xFF).i.toNat +
        ((((atPc 0xFFD).setI 0xF00).writeV 0 0xFF).readV 0).toNat < Config.memSize ∧
      (((atPc 0xFFD).setI 0xF00).writeV 0 0xFF).pc.toNat + 2 < Config.memSize) ∧
      Config.memSize ≤ (((atPc 0xFFD).setI 0xFFF).writeV 0 1).i.toNat +
        ((((atPc 0xFFD).setI 0xFFF).writeV 0 1).readV 0).toNat := by decide

theorem witness_FontAddressOfDigit :
    (atPc 0xFFD).pc.toNat + 2 < Config.memSize ∧
      (((atPc 0xFFD).writeV 4 0xF).readV 4).toNat = (15 : Fin 16).val ∧
      (((atPc 0xFFD).writeV 4 0x1A).readV 4 = ((atPc 0x200).writeV 5 0x1A).readV 5) := by decide

theorem witness_DecimalDigitsStored :
    (State.reset.mem.wf = true ∧ ((atPc 0xFFD).setI 0xFFD).dataAddr 2 < Config.memSize ∧
      (atPc 0xFFD).pc.toNat + 2 < Config.memSize) ∧
      Config.memSize ≤ (State.reset.setI 0xFFE).dataAddr 2 ∧ (State.reset.setI 0xFFE).dataAddr 1 < Config.memSize ∧
      Config.memSize ≤ (State.reset.setI 0xFFF).dataAddr 2 := by decide

theorem witness_RegistersStored :
    (State.reset.mem.wf = true ∧ ((atPc 0xFFD).setI 0xFF0).dataAddr (0xF#4).toNat < Config.memSize ∧
      (atPc 0xFFD).pc.toNat + 2 < Config.memSize ∧ (0xF#4).toNat ≤ (0xF#4).toNat) ∧
      Config.memSize ≤ (State.reset.setI 0xFF1).dataAddr (0xF#4).toNat ∧
      (State.reset.setI 0xFF1).dataAddr (0xE#4).toNat < Config.memSize := by decide

theorem witness_RegistersLoaded :
    (((atPc 0xFFD).setI 0xFFF).dataAddr (0#4).toNat < Config.memSize ∧ (atPc 0xFFD).pc.toNat + 2 < Config.memSize) ∧
      Config.memSize ≤ ((atPc 0xFFD).setI 0xFFF).dataAddr (1#4).toNat := by decide

theorem witness_DrawSpriteSetsCollision :
    (((0x0#4) = 0 ∨ ((atPc 0xFFD).setI 0xFFF).dataAddr (0x0#4).toNat ≤ Config.memSize) ∧
      (atPc 0xFFD).pc.toNat + 2 < Config.memSize) ∧
      ((0x1#4) = 0 ∨ ((atPc 0xFFD).setI 0xFFF).dataAddr (0x1#4).toNat ≤ Config.memSize) ∧
      ((0x2#4) ≠ 0 ∧ Config.memSize < ((atPc 0xFFD).setI 0xFFF).dataAddr (0x2#4).toNat) ∧
      (answering [] [] [true] (atPc 0xFFD)).env.collisions = [true] := by decide

theorem witness_MemWriteContract :
    (State.reset.mem.wf = true ∧ (([] : List Byte) = [] ∨ 0x2000 + ([] : List Byte).length ≤ Config.memSize)) ∧
      (([1, 2, 3] : List Byte) = [] ∨ 0xFFD + ([1, 2, 3] : List Byte).length ≤ Config.memSize) ∧
      (([1, 2, 3] : List Byte) ≠ [] ∧ Config.memSize < 0xFFE + ([1, 2, 3] : List Byte).length) := by decide

/-! ### Witnesses: the whole machine -/

theorem witness_PcUpdateOutOfBounds : sequential (.opFX55 0xF) = true ∧ Config.memSize ≤ (atPc 0xFFE).pc.toNat + 2 ∧
    Config.memSize ≤ (atPc 0xFFF).pc.toNat + 2 := by decide

theorem witness_RaiseReportsTheInstruction :
    (State.reset.halted = false ∧ ∃ t, exec .op00EE State.reset = .next t ∧ t.halted = true ∧ t.fault = .stackUnderflow) ∧
      (∃ t, exec (.op2NNN 0) { State.reset with sp := 16 } = .next t ∧ t.fault = .stackOverflow) ∧
      (∃ t, exec (.op6XNN 0 0) (atPc 0xFFE) = .next t ∧ t.fault = .outOfBounds) :=
  ⟨⟨by decide, _, rfl, by decide, by decide⟩, ⟨_, rfl, by decide⟩, ⟨_, rfl, by decide⟩⟩

theorem witness_FrameOfEveryInstruction :
    (∃ t, exec (.op8XY4 1 2) State.reset = .next t) ∧ ¬ writesI (.op8XY4 1 2) ∧ (Instr.op8XY4 1 2 ≠ .op00EE) ∧
      (∀ nnn, Instr.op8XY4 1 2 ≠ .op2NNN nnn) ∧ (∀ x, Instr.op8XY4 1 2 ≠ .opFX33 x) ∧
      (∀ x, Instr.op8XY4 1 2 ≠ .opFX55 x) :=
  ⟨⟨_, rfl⟩, by simp [writesI], by simp, by simp, by simp, by simp⟩

theorem witness_OnlyDestinationsChange :
    (∃ t, exec (.op8XY4 1 2) State.reset = .next t) ∧ (0xE : Nibble) ∉ destRegs (.op8XY4 1 2) ∧
      (3 : Nibble) ∉ destRegs (.opFX65 2) := ⟨⟨_, rfl⟩, by decide, by decide⟩

theorem witness_PcMovesAsTabled :
    (∃ t, exec (.op6XNN 0 1) (atPc 0xFFD) = .next t ∧ t.halted = false) ∧
      (∃ t, exec .op00EE { State.reset with sp := 16 } = .next t ∧ t.halted = false) ∧
      (∃ t, exec (.op3XNN 0 0) (atPc 0xFFB) = .next t ∧ t.halted = false) ∧
      (∃ t, exec (.op9XY0 0 0) (atPc 0xFFD) = .next t ∧ t.halted = false) :=
  ⟨⟨_, rfl, by decide⟩, ⟨_, rfl, by decide⟩, ⟨_, rfl, by decide⟩, ⟨_, rfl, by decide⟩⟩

/-- The clauses meet at the last address: one sprite byte at 0xFFF lies in memory, two do not; an empty sprite lies nowhere. At
`pc` = 0xFFE the transaction is made although the `pc` update faults. -/
theorem witness_OneTransactionPerPortInstruction :
    ((∃ t, exec (.opDXYN 0 1 1) ((atPc 0xFFE).setI 0xFFF) = .next t ∧ t.fault = .outOfBounds ∧
          t.env.trace.length = 1) ∧
        (∃ e, transacts (.opDXYN 0 1 1) e) ∧ ¬ spriteBeyond (.opDXYN 0 1 1) ((atPc 0xFFE).setI 0xFFF) ∧
        ¬ spriteBeyond (.opDXYN 0 1 0) ((atPc 0xFFE).setI 0xFFF)) ∧
      ((∃ t, exec (.opDXYN 0 1 2) ((atPc 0xFFE).setI 0xFFF) = .next t) ∧
        spriteBeyond (.opDXYN 0 1 2) ((atPc 0xFFE).setI 0xFFF)) ∧
      ((∃ t, exec (.op6XNN 0 1) State.reset = .next t) ∧ ∀ e, ¬ transacts (.op6XNN 0 1) e) := by
  refine ⟨⟨⟨_, rfl, by decide +kernel, by decide +kernel⟩, ⟨.drawSprite 0 0 [] false, by simp [transacts]⟩, ?_, ?_⟩,
    ⟨⟨_, rfl⟩, 0, 1, 2, rfl, by decide, by decide⟩, ⟨_, rfl⟩, by simp [transacts]⟩
  · rintro ⟨x, y, n, h, -, hn⟩
    cases h
    exact absurd hn (by decide)
  · rintro ⟨x, y, n, h, hn, -⟩
    cases h
    exact absurd rfl hn

theorem witness_TimersNeverIncrease :
    (∃ t, step lastWord = .next t) ∧ lastWord.fetch = some 0x1234 ∧ ∀ x, decode 0x1234 ≠ .ok (.opFX15 x) :=
  ⟨⟨_, rfl⟩, by decide +kernel,
    fun x => by rw [decode_of_decodesTo (i := .op1NNN 0x234) (by decide)]; simp⟩

theorem witness_CallThenReturnRestoresPc :
    { atPc 0xFFD with sp := 15 }.pc.toNat + 2 < Config.memSize ∧ { atPc 0xFFD with sp := 15 }.sp.val < 16 := by decide

/-- Two different states that nothing can tell apart. -/
theorem witness_UnspecifiedRestIsUnobservable :
    SameObservable State.reset { State.reset with stack := Vector.replicate 16 0xABC, faultPc := 5, faultWord := 7 } ∧
      State.reset ≠ { State.reset with stack := Vector.replicate 16 0xABC, faultPc := 5, faultWord := 7 } := by
  unfold SameObservable
  decide +kernel

theorem witness_ResetInitialises :
    (∀ d : Fin 16, ¬ ((conventionalGlyphAddr[d]).toNat ≤ 80 ∧
        80 < (conventionalGlyphAddr[d]).toNat + (conventionalGlyphs[d]).length)) ∧
      glyphsFit conventionalParams = true ∧ (conventionalGlyphs[(0 : Fin 16)])[4]? = some 0xF0 ∧
      (∀ e : Fin 16, 0 < e → ¬ ((conventionalGlyphAddr[e]).toNat ≤ (conventionalGlyphAddr[(0 : Fin 16)]).toNat + 4 ∧
        (conventionalGlyphAddr[(0 : Fin 16)]).toNat + 4 <
          (conventionalGlyphAddr[e]).toNat + (conventionalGlyphs[e]).length)) := by decide +kernel

theorem witness_LoadPlacesImage :
    State.reset.mem.wf = true ∧
      State.reset.params.loadAddr.toNat + (List.replicate 3584 (0x60 : Byte)).length ≤ Config.memSize ∧
      Config.memSize < State.reset.params.loadAddr.toNat + (List.replicate 3585 (0x60 : Byte)).length := by
  rw [List.length_replicate, List.length_replicate]; decide

theorem witness_CanonicalMemoriesAreEqual :
    Memory.wf [(0, 0), (0x300, 1), (0xFFF, 2)] = true ∧ Memory.wf [(0x300, 0)] = false ∧
      Memory.wf [(0x301, 1), (0x300, 1)] = false := by decide +kernel

theorem witness_StepKeepsInvariant : lastWord.Inv ∧ ∃ t, step lastWord = .next t := by
  refine ⟨⟨by decide +kernel, fun h => absurd h (by decide), fun h => absurd h (by decide),
    fun h => absurd h (by decide), fun h => absurd h (by decide), fun h => absurd h (by decide)⟩, _, rfl⟩

end Sys2Proof.Machine.Tests
end

section
/-! PROOFS. The frame of an instruction (00_scope.md R11): what every instruction keeps of `I`, the call stack, memory and the
open parameters. `exec_storage_cases` says it once, over the instructions; O44 reads it off. -/

namespace Sys2Proof.Machine

open Sys2Proof

/-- `t` has the `I`, the call stack, the memory and the open parameters of `s`. -/
structure KeepsStorage (s t : State) : Prop where
  i : t.i = s.i
  stack : t.stack = s.stack
  sp : t.sp = s.sp
  mem : t.mem = s.mem
  params : t.params = s.params

/-! ### The operations that keep the storage -/

namespace KeepsStorage

theorem trans {s t u : State} (h : KeepsStorage s t) (h' : KeepsStorage t u) : KeepsStorage s u :=
  ⟨h'.i.trans h.i, h'.stack.trans h.stack, h'.sp.trans h.sp, h'.mem.trans h.mem, h'.params.trans h.params⟩

theorem keepsStack {s t : State} (h : KeepsStorage s t) : KeepsStack s t := ⟨h.stack, h.sp⟩

theorem keepsMemory {s t : State} (h : KeepsStorage s t) : KeepsMemory s t :=
  fun a => congrArg (Memory.read · a) h.mem

theorem raise (k : FaultKind) (w : Word) (s : State) : KeepsStorage s (s.raise k w) := ⟨rfl, rfl, rfl, rfl, rfl⟩

theorem jumpTo (a : Addr) (s : State) : KeepsStorage s (s.jumpTo a) := ⟨rfl, rfl, rfl, rfl, rfl⟩

theorem writeV (r : Nibble) (b : Byte) (s : State) : KeepsStorage s (s.writeV r b) := ⟨rfl, rfl, rfl, rfl, rfl⟩

theorem emit (e : PortEvent) (s : State) : KeepsStorage s (s.emit e) := ⟨rfl, rfl, rfl, rfl, rfl⟩

theorem setDelay (b : Byte) (s : State) : KeepsStorage s (s.setDelay b) := ⟨rfl, rfl, rfl, rfl, rfl⟩

theorem setSound (b : Byte) (s : State) : KeepsStorage s (s.setSound b) := ⟨rfl, rfl, rfl, rfl, rfl⟩

theorem setPc (n : Nat) (w : Word) (s : State) : KeepsStorage s (s.setPc n w) := by constructor <;> simp

theorem advance (w : Word) (s : State) : KeepsStorage s (s.advance w) := setPc _ w s

theorem skipIf (c : Bool) (w : Word) (s : State) : KeepsStorage s (s.skipIf c w) := setPc _ w s

theorem rngNext (s : State) : KeepsStorage s s.rngNext.2 := by constructor <;> simp

theorem isPressed (k : Byte) (s : State) : KeepsStorage s (s.isPressed k).2 := by constructor <;> simp

theorem drawSprite (x y : Byte) (bytes : List Byte) (s : State) : KeepsStorage s (s.drawSprite x y bytes).2 := by
  constructor <;> simp

/-- A register write and the `pc` update after it, the end of most instructions. -/
theorem writeV_advance (r : Nibble) (b : Byte) (w : Word) (s : State) : KeepsStorage s ((s.writeV r b).advance w) :=
  (writeV r b s).trans (advance w _)

/-- FX65 fills registers only, also where a byte lies beyond memory (R145, R179). -/
theorem loadBlock_advance (w : Word) {n k : Nat} (hk : k + n ≤ 16) (s : State) :
    KeepsStorage s ((s.loadBlock w n k).andThen (State.advance w)) := by
  obtain ⟨t, ht, -, hload⟩ := s.loadBlock_spec w n k hk
  have hkeep : KeepsStorage s t := by constructor <;> rw [ht]
  rw [hload]
  split
  · exact hkeep.trans (advance w t)
  · exact hkeep.trans (raise _ w t)

/-- A store places its bytes, as far as memory reaches, and changes nothing else of the storage (R52, R179). -/
theorem storeBytes_advance (w : Word) (a : Nat) (bs : List Byte) (s : State) :
    KeepsStorage (s.placeBytes a bs) ((s.storeBytes w a bs).andThen (State.advance w)) := by
  rw [State.storeBytes_eq]
  split
  · exact advance w _
  · exact raise _ w _

end KeepsStorage

/-! ### The instructions whose outcome depends on a check -/

/-- A sprite read that leaves memory raises; otherwise only VF, the environment and `pc` are touched (R152). -/
theorem execDXYN_keepsStorage {x y n : Nibble} {s t : State} (h : exec (.opDXYN x y n) s = .next t) : KeepsStorage s t := by
  obtain rfl := Host.Outcome.next.inj h
  split
  · exact (KeepsStorage.drawSprite ..).trans (.writeV_advance ..)
  · exact .raise ..

/-- RET changes at most the stack (R100, R172). -/
theorem exec00EE_keepsStorage {s t : State} (h : exec .op00EE s = .next t) :
    ∃ stack sp, KeepsStorage { s with stack, sp } t := by
  obtain rfl := Host.Outcome.next.inj h
  rcases s.pop_cases with ⟨_, h17, -, hpop⟩ | ⟨-, hpop⟩ <;> simp only [hpop]
  · exact ⟨s.stack, ⟨s.sp.val - 1, h17⟩, .jumpTo ..⟩
  · exact ⟨s.stack, s.sp, .raise ..⟩

/-- CALL changes at most the stack (R102, R173, R174). -/
theorem exec2NNN_keepsStorage {nnn : Addr} {s t : State} (h : exec (.op2NNN nnn) s = .next t) :
    ∃ stack sp, KeepsStorage { s with stack, sp } t := by
  obtain rfl := Host.Outcome.next.inj h
  split
  · rcases s.push_cases (BitVec.ofNat 12 (s.pc.toNat + 2)) with ⟨_, hpush⟩ | ⟨-, hpush⟩ <;> simp only [hpush]
    · exact ⟨_, _, .jumpTo ..⟩
    · exact ⟨s.stack, s.sp, .raise ..⟩
  · exact ⟨s.stack, s.sp, .raise ..⟩

/-- ADD I changes at most `I` (R141, D3). -/
theorem execFX1E_keepsStorage {x : Nibble} {s t : State} (h : exec (.opFX1E x) s = .next t) :
    ∃ a, KeepsStorage (s.setI a) t := by
  obtain rfl := Host.Outcome.next.inj h
  split
  · exact ⟨_, .advance ..⟩
  · exact ⟨s.i, .raise ..⟩

/-- Everything an instruction can do to the storage, completed or faulted (R11, R146): nothing, unless it is one of the three
that write `I`, the two that use the stack, the two that store. -/
theorem exec_storage_cases {i : Instr} {s t : State} (h : exec i s = .next t) :
    KeepsStorage s t ∨
      (writesI i ∧ ∃ a, KeepsStorage (s.setI a) t) ∨
      ((i = .op00EE ∨ ∃ nnn, i = .op2NNN nnn) ∧ ∃ stack sp, KeepsStorage { s with stack, sp } t) ∨
      (((∃ x, i = .opFX33 x) ∨ ∃ x, i = .opFX55 x) ∧ ∃ a bs, KeepsStorage (s.placeBytes a bs) t) := by
  cases i with
  | op00EE => exact .inr (.inr (.inl ⟨.inl rfl, exec00EE_keepsStorage h⟩))
  | op2NNN nnn => exact .inr (.inr (.inl ⟨.inr ⟨nnn, rfl⟩, exec2NNN_keepsStorage h⟩))
  | opFX1E x => exact .inr (.inl ⟨.inr (.inl ⟨x, rfl⟩), execFX1E_keepsStorage h⟩)
  | opDXYN x y n => exact .inl (execDXYN_keepsStorage h)
  | opANNN nnn => cases h; exact .inr (.inl ⟨.inl ⟨nnn, rfl⟩, nnn, .advance ..⟩)
  | opFX29 x => cases h; exact .inr (.inl ⟨.inr (.inr ⟨x, rfl⟩), _, .advance ..⟩)
  | opFX33 x => cases h; exact .inr (.inr (.inr ⟨.inl ⟨x, rfl⟩, _, _, .storeBytes_advance ..⟩))
  | opFX55 x => cases h; exact .inr (.inr (.inr ⟨.inr ⟨x, rfl⟩, _, _, .storeBytes_advance ..⟩))
  | opFX65 x => cases h; exact .inl (.loadBlock_advance _ (by have := x.isLt; omega) s)
  | op1NNN nnn => cases h; exact .inl (.jumpTo ..)
  | opBNNN nnn => cases h; exact .inl (.setPc ..)
  | op3XNN | op4XNN | op5XY0 | op9XY0 => cases h; exact .inl (.skipIf ..)
  | opEX9E x | opEXA1 x => cases h; exact .inl ((KeepsStorage.isPressed ..).trans (.skipIf ..))
  | op6XNN | op7XNN | op8XY0 | op8XY1 | op8XY2 | op8XY3 => cases h; exact .inl (.writeV_advance ..)
  | op8XY4 | op8XY5 | op8XY6 | op8XY7 | op8XYE =>
    cases h; exact .inl ((KeepsStorage.writeV ..).trans (.writeV_advance ..))
  | op00E0 => cases h; exact .inl ((KeepsStorage.emit ..).trans (.advance ..))
  | opCXNN => cases h; exact .inl ((KeepsStorage.rngNext s).trans (.writeV_advance ..))
  | opFX07 => cases h; exact .inl ((KeepsStorage.emit ..).trans (.writeV_advance ..))
  | opFX15 => cases h; exact .inl ((KeepsStorage.setDelay ..).trans (.advance ..))
  | opFX18 => cases h; exact .inl ((KeepsStorage.setSound ..).trans (.advance ..))

/-- Settles O44: of the storage an instruction changes at most the one part `exec_storage_cases` names for it. -/
theorem frameOfEveryInstruction : Obligations.FrameOfEveryInstruction := by
  intro i s t h
  rcases exec_storage_cases h with hk | ⟨hi, a, hk⟩ | ⟨hi, stack, sp, hk⟩ | ⟨hi, a, bs, hk⟩
  · exact ⟨fun _ => hk.i, fun _ _ => hk.keepsStack, fun _ _ => hk.keepsMemory, hk.params⟩
  · exact ⟨fun hno => absurd hi hno, fun _ _ => hk.keepsStack, fun _ _ => hk.keepsMemory, hk.params⟩
  · refine ⟨fun _ => hk.i, fun hret hcall => ?_, fun _ _ => hk.keepsMemory, hk.params⟩
    rcases hi with hi | ⟨nnn, hi⟩
    · exact absurd hi hret
    · exact absurd hi (hcall nnn)
  · refine ⟨fun _ => hk.i, fun _ _ => hk.keepsStack, fun h33 h55 => ?_, hk.params⟩
    rcases hi with ⟨x, hi⟩ | ⟨x, hi⟩
    · exact absurd hi (h33 x)
    · exact absurd hi (h55 x)

end Sys2Proof.Machine
end

section
/-! PROOFS. What one step does (30_encoding.md R74; 70_reset_and_hazards.md R208), case by case. -/

namespace Sys2Proof.Machine

open Sys2Proof

theorem step_of_halted {s : State} (h : s.halted = true) : step s = .fault (.halted s.report) := if_pos h

theorem step_of_not_halted {s : State} (h : s.halted = false) : step s = runOne s.betweenSteps :=
  if_neg (Bool.eq_false_iff.mp h)

theorem runOne_of_no_fetch {s : State} (hf : s.fetch = none) : runOne s = .next s.raiseFetch := by
  simp only [runOne, hf]

theorem runOne_of_invalid {s : State} {w : Word} {r : Reject} (hf : s.fetch = some w) (hd : decode w = .error r) :
    runOne s = .next (s.raise .decodeError w) := by
  simp only [runOne, hf, hd]

theorem runOne_of_valid {s : State} {w : Word} {i : Instr} (hf : s.fetch = some w) (hd : decode w = .ok i) :
    runOne s = exec i s := by
  simp only [runOne, hf, hd]

end Sys2Proof.Machine
end

section
/-! PROOFS. The unspecified rest of the state (10_state.md R25, R34; D18): the stack entries above SP and the report fields of a
latch without a fault. Of two states that differ in it alone one is `State.withRest` of the other, and what an instruction reads
of the two is equal by definition; so each operation keeps `SameObservable`, and an instruction is a chain of operations. -/

namespace Sys2Proof.Machine

open Sys2Proof

/-- `s` with other stack entries and other report fields of the latch. -/
def State.withRest (stack : Vector Addr 16) (faultPc : Addr) (faultWord : Word) (s : State) : State :=
  { s with stack, faultPc, faultWord }

@[simp] theorem State.withRest_pc (stack : Vector Addr 16) (a : Addr) (w : Word) (s : State) :
    (s.withRest stack a w).pc = s.pc := rfl

@[simp] theorem State.withRest_readV (stack : Vector Addr 16) (a : Addr) (w : Word) (s : State) (x : Nibble) :
    (s.withRest stack a w).readV x = s.readV x := rfl

@[simp] theorem State.withRest_dataAddr (stack : Vector Addr 16) (a : Addr) (w : Word) (s : State) (k : Nat) :
    (s.withRest stack a w).dataAddr k = s.dataAddr k := rfl

@[simp] theorem State.withRest_memReadN (stack : Vector Addr 16) (a : Addr) (w : Word) (s : State) (k n : Nat) :
    (s.withRest stack a w).memReadN k n = s.memReadN k n := by
  rw [State.memReadN_eq, State.memReadN_eq]
  rfl

namespace SameObservable

variable {s s' : State}

/-- States that show the same differ in the rest alone. -/
theorem exists_rest (h : SameObservable s s') : ∃ stack a w, s' = s.withRest stack a w := by
  obtain ⟨hv, hpc, hi, hsp, -, hmem, hfault, -, hparams, henv, hdraws⟩ := h
  refine ⟨s'.stack, s'.faultPc, s'.faultWord, ?_⟩
  cases s'
  simp_all [State.withRest]

/-- What of the rest two such states share: the stack entries in use, and the report of a latched fault. -/
theorem withRest_iff {stack : Vector Addr 16} {a : Addr} {w : Word} :
    SameObservable s (s.withRest stack a w) ↔
      (∀ k : Fin 16, k.val < s.sp.val → stack[k] = s.stack[k]) ∧ (s.halted = true → a = s.faultPc ∧ w = s.faultWord) := by
  simp [SameObservable, State.withRest]

/-- An operation that neither reads nor writes the rest keeps the relation. -/
theorem map {f : State → State} (h : SameObservable s s')
    (hcomm : ∀ stack a w, f (s.withRest stack a w) = (f s).withRest stack a w)
    (hstack : KeepsStack s (f s)) (hlatch : KeepsLatch s (f s)) : SameObservable (f s) (f s') := by
  obtain ⟨stack, a, w, rfl⟩ := h.exists_rest
  obtain ⟨hstk, hsp⟩ := hstack
  obtain ⟨hfault, hfaultPc, hfaultWord⟩ := hlatch
  rw [hcomm, withRest_iff, hstk, hsp, hfaultPc, hfaultWord, State.halted, hfault]
  exact withRest_iff.mp h

/-! ### The operations of an instruction -/

theorem writeV (h : SameObservable s s') (r : Nibble) (b : Byte) : SameObservable (s.writeV r b) (s'.writeV r b) :=
  h.map (fun _ _ _ => rfl) ⟨rfl, rfl⟩ ⟨rfl, rfl, rfl⟩

theorem jumpTo (h : SameObservable s s') (t : Addr) : SameObservable (s.jumpTo t) (s'.jumpTo t) :=
  h.map (fun _ _ _ => rfl) ⟨rfl, rfl⟩ ⟨rfl, rfl, rfl⟩

theorem setI (h : SameObservable s s') (t : Addr) : SameObservable (s.setI t) (s'.setI t) :=
  h.map (fun _ _ _ => rfl) ⟨rfl, rfl⟩ ⟨rfl, rfl, rfl⟩

theorem emit (h : SameObservable s s') (e : PortEvent) : SameObservable (s.emit e) (s'.emit e) :=
  h.map (fun _ _ _ => rfl) ⟨rfl, rfl⟩ ⟨rfl, rfl, rfl⟩

theorem setDelay (h : SameObservable s s') (b : Byte) : SameObservable (s.setDelay b) (s'.setDelay b) :=
  h.map (fun _ _ _ => rfl) ⟨rfl, rfl⟩ ⟨rfl, rfl, rfl⟩

theorem setSound (h : SameObservable s s') (b : Byte) : SameObservable (s.setSound b) (s'.setSound b) :=
  h.map (fun _ _ _ => rfl) ⟨rfl, rfl⟩ ⟨rfl, rfl, rfl⟩

theorem placeBytes (h : SameObservable s s') (a : Nat) (bs : List Byte) :
    SameObservable (s.placeBytes a bs) (s'.placeBytes a bs) :=
  h.map (fun _ _ _ => rfl) ⟨rfl, rfl⟩ ⟨rfl, rfl, rfl⟩

/-- A fault writes the report fields, so that they agree afterwards whatever they were. -/
theorem raise (h : SameObservable s s') (k : FaultKind) (w : Word) : SameObservable (s.raise k w) (s'.raise k w) := by
  obtain ⟨stack, a, w', rfl⟩ := h.exists_rest
  exact withRest_iff.mpr ⟨(withRest_iff.mp h).1, fun _ => ⟨rfl, rfl⟩⟩

theorem raiseFetch (h : SameObservable s s') : SameObservable s.raiseFetch s'.raiseFetch := by
  obtain ⟨stack, a, w, rfl⟩ := h.exists_rest
  exact withRest_iff.mpr ⟨(withRest_iff.mp h).1, fun _ => ⟨rfl, rfl⟩⟩

theorem setPc (h : SameObservable s s') (n : Nat) (w : Word) : SameObservable (s.setPc n w) (s'.setPc n w) := by
  unfold State.setPc
  split
  · exact h.jumpTo _
  · exact h.raise ..

theorem advance (h : SameObservable s s') (w : Word) : SameObservable (s.advance w) (s'.advance w) := by
  obtain ⟨stack, a, w', rfl⟩ := h.exists_rest
  exact h.setPc _ w

theorem skipIf (h : SameObservable s s') (c : Bool) (w : Word) : SameObservable (s.skipIf c w) (s'.skipIf c w) := by
  obtain ⟨stack, a, w', rfl⟩ := h.exists_rest
  exact h.setPc _ w

/-! ### The answers of the environment -/

/-- The same for an operation that answers: it answers alike. -/
theorem map_answer {α : Type} {f : State → α × State} (h : SameObservable s s')
    (hcomm : ∀ stack a w, f (s.withRest stack a w) = ((f s).1, (f s).2.withRest stack a w))
    (hstack : KeepsStack s (f s).2) (hlatch : KeepsLatch s (f s).2) :
    (f s').1 = (f s).1 ∧ SameObservable (f s).2 (f s').2 := by
  refine ⟨?_, h.map (f := fun s => (f s).2) (fun stack a w => congrArg Prod.snd (hcomm stack a w)) hstack hlatch⟩
  obtain ⟨stack, a, w, rfl⟩ := h.exists_rest
  rw [hcomm]

theorem rngNext (h : SameObservable s s') : s'.rngNext.1 = s.rngNext.1 ∧ SameObservable s.rngNext.2 s'.rngNext.2 := by
  refine h.map_answer (fun stack a w => ?_) (by simp [KeepsStack]) (by simp [KeepsLatch])
  unfold State.rngNext State.takeRandom State.withRest
  cases s.env.randoms <;> rfl

theorem isPressed (h : SameObservable s s') (k : Byte) :
    (s'.isPressed k).1 = (s.isPressed k).1 ∧ SameObservable (s.isPressed k).2 (s'.isPressed k).2 := by
  refine h.map_answer (fun stack a w => ?_) (by simp [KeepsStack]) (by simp [KeepsLatch])
  unfold State.isPressed State.takePressed State.withRest
  cases s.env.presses <;> rfl

theorem drawSprite (h : SameObservable s s') (x y : Byte) (bytes : List Byte) :
    (s'.drawSprite x y bytes).1 = (s.drawSprite x y bytes).1 ∧
      SameObservable (s.drawSprite x y bytes).2 (s'.drawSprite x y bytes).2 := by
  refine h.map_answer (fun stack a w => ?_) (by simp [KeepsStack]) (by simp [KeepsLatch])
  unfold State.drawSprite State.takeCollided State.withRest
  cases s.env.collisions <;> rfl

theorem betweenSteps (h : SameObservable s s') : SameObservable s.betweenSteps s'.betweenSteps := by
  refine h.map (fun stack a w => ?_) (by simp [KeepsStack]) (by simp [KeepsLatch])
  unfold State.betweenSteps State.takeTicks State.withRest
  cases s.env.ticks <;> rfl

/-! ### The loops of the stores and of FX65 -/

theorem storeBytes_advance (h : SameObservable s s') (w : Word) (a : Nat) (bs : List Byte) :
    SameObservable ((s.storeBytes w a bs).andThen (State.advance w)) ((s'.storeBytes w a bs).andThen (State.advance w)) := by
  rw [State.storeBytes_eq, State.storeBytes_eq]
  split
  · exact (h.placeBytes a bs).advance w
  · exact (h.placeBytes a bs).raise _ w

theorem loadBlock_advance (h : SameObservable s s') (w : Word) (n k : Nat) :
    SameObservable ((s.loadBlock w n k).andThen (State.advance w)) ((s'.loadBlock w n k).andThen (State.advance w)) := by
  induction n generalizing k s s' with
  | zero => exact h.advance w
  | succ n ih =>
    have hread : s'.memRead (s'.dataAddr k) = s.memRead (s.dataAddr k) := by
      obtain ⟨stack, a, w', rfl⟩ := h.exists_rest
      rfl
    rw [State.loadBlock, State.loadBlock, hread]
    cases s.memRead (s.dataAddr k) with
    | some b => exact ih (h.writeV _ b) (k + 1)
    | none => exact h.raise _ w

/-! ### The call stack -/

/-- A pop takes an entry below SP, the same one in both states (R26). -/
theorem pop (h : SameObservable s s') :
    (s.pop = none ∧ s'.pop = none) ∨ ∃ t u u', s.pop = some (t, u) ∧ s'.pop = some (t, u') ∧ SameObservable u u' := by
  obtain ⟨stack, a, w, rfl⟩ := h.exists_rest
  obtain ⟨hstack, hlatch⟩ := withRest_iff.mp h
  by_cases h0 : s.sp.val = 0
  · exact .inl ⟨if_pos h0, if_pos h0⟩
  · have hlt := s.sp.isLt
    have htop : stack[s.sp.val - 1] = s.stack[s.sp.val - 1] := hstack ⟨s.sp.val - 1, by omega⟩ (by grind)
    refine .inr ⟨s.stack[s.sp.val - 1], _, { s.withRest stack a w with sp := ⟨s.sp.val - 1, by omega⟩ }, if_neg h0, ?_, ?_⟩
    · rw [← htop]
      exact if_neg h0
    · exact withRest_iff.mpr ⟨fun k hk => hstack k (by grind), hlatch⟩

/-- A push writes the entry at SP, which is then in use and the same in both states (R26). -/
theorem push (h : SameObservable s s') (v : Addr) :
    (s.push v = none ∧ s'.push v = none) ∨ ∃ u u', s.push v = some u ∧ s'.push v = some u' ∧ SameObservable u u' := by
  obtain ⟨stack, a, w, rfl⟩ := h.exists_rest
  obtain ⟨hstack, hlatch⟩ := withRest_iff.mp h
  by_cases hroom : s.sp.val < 16
  · refine .inr ⟨_, _, dif_pos hroom, dif_pos hroom, withRest_iff.mpr ⟨fun k hk => ?_, hlatch⟩⟩
    by_cases htop : k.val = s.sp.val
    · simp [State.withRest, htop]
    · have hbelow : k.val < s.sp.val := by grind
      simpa [State.withRest, Vector.getElem_set, Ne.symm htop] using hstack k hbelow
  · exact .inl ⟨dif_neg hroom, dif_neg hroom⟩

end SameObservable

/-- Two states that show the same still do after an instruction: it reads both alike, so that it does the same operations to
both. -/
theorem exec_sameObservable (i : Instr) {s s' : State} (h : SameObservable s s') :
    ∃ t t', exec i s = .next t ∧ exec i s' = .next t' ∧ SameObservable t t' := by
  obtain ⟨stack, a, w, rfl⟩ := h.exists_rest
  cases i <;> refine ⟨_, _, rfl, rfl, ?_⟩
  case op00EE =>
    rcases h.pop with ⟨hp, hp'⟩ | ⟨t, u, u', hp, hp', hu⟩ <;> rw [hp, hp']
    · exact h.raise ..
    · exact hu.jumpTo t
  case op2NNN nnn =>
    by_cases hret : s.pc.toNat + 2 < Config.memSize <;> simp only [State.withRest_pc, hret, if_true, if_false]
    · rcases h.push (BitVec.ofNat 12 (s.pc.toNat + 2)) with ⟨hp, hp'⟩ | ⟨u, u', hp, hp', hu⟩ <;> rw [hp, hp']
      · exact h.raise ..
      · exact hu.jumpTo nnn
    · exact h.raise ..
  case opDXYN x y n =>
    rw [State.withRest_dataAddr, State.withRest_memReadN]
    cases s.memReadN (s.dataAddr 0) n.toNat with
    | none => exact h.raise ..
    | some bytes =>
      obtain ⟨hc, hnext⟩ := h.drawSprite (s.readV x) (s.readV y) bytes
      simp only [State.withRest_readV, hc]
      exact (hnext.writeV ..).advance ..
  case opFX1E x =>
    rw [State.withRest_dataAddr, State.withRest_readV]
    by_cases hsum : s.dataAddr (s.readV x).toNat < Config.memSize <;> simp only [hsum, if_true, if_false]
    · exact (h.setI _).advance _
    · exact h.raise ..
  case opCXNN x nn =>
    obtain ⟨hb, hnext⟩ := h.rngNext
    rw [hb]
    exact (hnext.writeV ..).advance _
  case opEX9E x | opEXA1 x =>
    obtain ⟨hp, hnext⟩ := h.isPressed (s.readV x)
    rw [State.withRest_readV, hp]
    exact hnext.skipIf ..
  case opFX33 | opFX55 => exact h.storeBytes_advance ..
  case opFX65 => exact h.loadBlock_advance ..
  case op1NNN => exact h.jumpTo _
  case opBNNN => exact h.setPc ..
  case op3XNN | op4XNN | op5XY0 | op9XY0 => exact h.skipIf ..
  case op6XNN | op7XNN | op8XY0 | op8XY1 | op8XY2 | op8XY3 => exact (h.writeV ..).advance _
  case op8XY4 | op8XY5 | op8XY6 | op8XY7 | op8XYE => exact ((h.writeV ..).writeV ..).advance _
  case opANNN | opFX29 => exact (h.setI _).advance _
  case op00E0 => exact (h.emit _).advance _
  case opFX07 => exact ((h.emit _).writeV ..).advance _
  case opFX15 => exact (h.setDelay _).advance _
  case opFX18 => exact (h.setSound _).advance _

/-- The same for what a core that is not halted does: it fetches the same word, or none. -/
theorem runOne_sameObservable {s s' : State} (h : SameObservable s s') :
    ∃ t t', runOne s = .next t ∧ runOne s' = .next t' ∧ SameObservable t t' := by
  have hfetch : s'.fetch = s.fetch := by
    obtain ⟨stack, a, w, rfl⟩ := h.exists_rest
    rfl
  cases hf : s.fetch with
  | none => exact ⟨_, _, runOne_of_no_fetch hf, runOne_of_no_fetch (hfetch.trans hf), h.raiseFetch⟩
  | some w =>
    cases hd : decode w with
    | error => exact ⟨_, _, runOne_of_invalid hf hd, runOne_of_invalid (hfetch.trans hf) hd, h.raise ..⟩
    | ok i =>
      rw [runOne_of_valid hf hd, runOne_of_valid (hfetch.trans hf) hd]
      exact exec_sameObservable i h

/-- Settles O50: a halted core answers with report fields that the two states share; otherwise the ticks and the instruction
keep the relation. -/
theorem unspecifiedRestIsUnobservable : Obligations.UnspecifiedRestIsUnobservable := by
  intro s s' h
  obtain ⟨stack, a, w, rfl⟩ := h.exists_rest
  cases hhalt : s.halted with
  | true =>
    obtain ⟨rfl, rfl⟩ := (SameObservable.withRest_iff.mp h).2 hhalt
    exact .inr ⟨_, step_of_halted hhalt, step_of_halted hhalt⟩
  | false =>
    obtain ⟨t, t', ht, ht', hsame⟩ := runOne_sameObservable h.betweenSteps
    have hhalt' : (s.withRest stack a w).halted = false := hhalt
    exact .inl ⟨t, t', (step_of_not_halted hhalt).trans ht, (step_of_not_halted hhalt').trans ht', hsame⟩

end Sys2Proof.Machine
end

section
/-! PROOFS. The decoder undoes the encoder (30_encoding.md R86): the class nibble selects the arm, and the fields of the word are
the operands. -/

namespace Sys2Proof

theorem decode_encode (i : Instr) : decode (encode i) = .ok i := by
  cases i with
  | op00E0 | op00EE => rfl
  | op8XY0 | op8XY1 | op8XY2 | op8XY3 | op8XY4 | op8XY5 | op8XY6 | op8XY7 | op8XYE =>
    exact (decode_class8 (fieldClass_xyn ..)).trans (by simp [decodeClass8])
  | opEX9E | opEXA1 => exact (decode_classE (fieldClass_xnn ..)).trans (by simp [decodeClassE])
  | opFX07 | opFX15 | opFX18 | opFX1E | opFX29 | opFX33 | opFX55 | opFX65 =>
    exact (decode_classF (fieldClass_xnn ..)).trans (by simp [decodeClassF])
  | op1NNN | op2NNN | opANNN | opBNNN | op3XNN | op4XNN | op6XNN | op7XNN | opCXNN | op5XY0 | op9XY0 | opDXYN =>
    simp [encode, decode]

end Sys2Proof
end

section
/-! PROOFS. How an instruction ends (10_state.md R20, R23; 60_exceptions.md R172 to R174, R178, R179): after work on its
destination registers it either moves `pc` to the target of the table, as far as that is an address, or raises a fault it can
raise. `exec_ends` says it once, over the instructions; O45, O46 and the latch of O56 are read off it. -/

namespace Sys2Proof.Machine

open Sys2Proof

/-- What the work of an instruction with the destination registers `rs` leaves alone: `pc`, the latch, the other registers. -/
structure Worked (rs : List Nibble) (s u : State) : Prop where
  pc : u.pc = s.pc
  latch : KeepsLatch s u
  regs : KeepsRegs rs s u

/-- The table of R23: the number an instruction moves `pc` to. -/
def PcTarget : Instr → State → Nat → Prop
  | .op00EE, s, n => ∃ k : Fin 16, s.sp.val = k.val + 1 ∧ n = s.stack[k].toNat
  | .op1NNN nnn, _, n | .op2NNN nnn, _, n => n = nnn.toNat
  | .opBNNN nnn, s, n => n = (s.readV 0).toNat + nnn.toNat
  | .op3XNN x nn, s, n => n = s.pc.toNat + (if s.readV x = nn then 4 else 2)
  | .op4XNN x nn, s, n => n = s.pc.toNat + (if s.readV x = nn then 2 else 4)
  | .op5XY0 x y, s, n => n = s.pc.toNat + (if s.readV x = s.readV y then 4 else 2)
  | .op9XY0 x y, s, n => n = s.pc.toNat + (if s.readV x = s.readV y then 2 else 4)
  | .opEX9E _, s, n | .opEXA1 _, s, n => n = s.pc.toNat + 4 ∨ n = s.pc.toNat + 2
  | _, s, n => n = s.pc.toNat + 2

theorem pcTarget_of_sequential {i : Instr} {s : State} {n : Nat} (hi : sequential i = true) :
    PcTarget i s n ↔ n = s.pc.toNat + 2 := by
  revert hi
  cases i <;> simp [sequential, PcTarget]

/-- The faults an instruction can raise, each for its cause (R172 to R174). -/
def CanRaise (i : Instr) (s : State) : FaultKind → Prop
  | .none | .decodeError => False
  | .stackUnderflow => i = .op00EE ∧ s.sp.val = 0
  | .stackOverflow => (∃ nnn, i = .op2NNN nnn) ∧ s.sp.val = 16
  | .outOfBounds => i ≠ .op00EE ∧ ∀ nnn, i ≠ .op1NNN nnn

theorem CanRaise.ne_none {i : Instr} {s : State} {k : FaultKind} (h : CanRaise i s k) : k ≠ .none := by
  rintro rfl
  exact h

/-- The two ends of an instruction after its work: the assignment to `pc`, which raises where the target is no address, or a
fault before it. -/
inductive Ends (i : Instr) (s : State) : State → Prop
  | setPc {u : State} {n : Nat} (work : Worked (destRegs i) s u) (target : PcTarget i s n) : Ends i s (u.setPc n (encode i))
  | raise {u : State} {k : FaultKind} (work : Worked (destRegs i) s u) (sp : u.sp = s.sp) (cause : CanRaise i s k) :
      Ends i s (u.raise k (encode i))

/-! ### The operations of the work -/

namespace Worked

variable {rs : List Nibble} {s t u : State}

theorem refl (s : State) : Worked rs s s := ⟨rfl, ⟨rfl, rfl, rfl⟩, fun _ _ => rfl⟩

theorem trans (h : Worked rs s t) (h' : Worked rs t u) : Worked rs s u := by
  obtain ⟨hf, hp, hw⟩ := h.latch
  obtain ⟨hf', hp', hw'⟩ := h'.latch
  exact ⟨h'.pc.trans h.pc, ⟨hf'.trans hf, hp'.trans hp, hw'.trans hw⟩, fun r hr => (h'.regs r hr).trans (h.regs r hr)⟩

theorem writeV {r : Nibble} (hr : r ∈ rs) (b : Byte) (s : State) : Worked rs s (s.writeV r b) :=
  ⟨rfl, ⟨rfl, rfl, rfl⟩, fun _ hq => State.readV_writeV_ne (by rintro rfl; exact hq hr) b s⟩

theorem setI (a : Addr) (s : State) : Worked rs s (s.setI a) := ⟨rfl, ⟨rfl, rfl, rfl⟩, fun _ _ => rfl⟩

theorem emit (e : PortEvent) (s : State) : Worked rs s (s.emit e) := ⟨rfl, ⟨rfl, rfl, rfl⟩, fun _ _ => rfl⟩

theorem setDelay (b : Byte) (s : State) : Worked rs s (s.setDelay b) := ⟨rfl, ⟨rfl, rfl, rfl⟩, fun _ _ => rfl⟩

theorem setSound (b : Byte) (s : State) : Worked rs s (s.setSound b) := ⟨rfl, ⟨rfl, rfl, rfl⟩, fun _ _ => rfl⟩

theorem placeBytes (a : Nat) (bs : List Byte) (s : State) : Worked rs s (s.placeBytes a bs) :=
  ⟨rfl, ⟨rfl, rfl, rfl⟩, fun _ _ => rfl⟩

theorem rngNext (s : State) : Worked rs s s.rngNext.2 := ⟨by simp, by simp [KeepsLatch], fun _ _ => by simp⟩

theorem isPressed (k : Byte) (s : State) : Worked rs s (s.isPressed k).2 :=
  ⟨by simp, by simp [KeepsLatch], fun _ _ => by simp⟩

theorem drawSprite (x y : Byte) (bytes : List Byte) (s : State) : Worked rs s (s.drawSprite x y bytes).2 :=
  ⟨by simp, by simp [KeepsLatch], fun _ _ => by simp⟩

end Worked

/-! ### The ends that instructions share -/

namespace Ends

variable {i : Instr} {s u : State}

/-- `pc <- pc + 2` after the work of a sequential instruction. -/
theorem advance (hi : sequential i = true) (work : Worked (destRegs i) s u) : Ends i s (u.advance (encode i)) :=
  .setPc work ((pcTarget_of_sequential hi).mpr (congrArg (BitVec.toNat · + 2) work.pc))

/-- A jump to a 12-bit target, which is always an address. -/
theorem jumpTo {a : Addr} (work : Worked (destRegs i) s u) (target : PcTarget i s a.toNat) : Ends i s (u.jumpTo a) := by
  have h := Ends.setPc work target
  rwa [State.setPc_of_lt _ a.isLt, BitVec.ofNat_toNat, BitVec.setWidth_eq] at h

/-- A skip (R114). -/
theorem skipIf {c : Bool} (work : Worked (destRegs i) s u)
    (target : PcTarget i s (if c then s.pc.toNat + 4 else s.pc.toNat + 2)) : Ends i s (u.skipIf c (encode i)) := by
  rw [← work.pc] at target
  exact .setPc work target

/-- A store: the bytes that fit are placed, then `pc` moves or OutOfBounds is raised (R52, R179). -/
theorem storeBytes (hi : sequential i = true) (cause : CanRaise i s .outOfBounds) (a : Nat) (bs : List Byte) :
    Ends i s ((s.storeBytes (encode i) a bs).andThen (State.advance (encode i))) := by
  rw [State.storeBytes_eq]
  split
  · exact .advance hi (.placeBytes a bs s)
  · exact .raise (.placeBytes a bs s) rfl cause

end Ends

/-! ### The instructions -/

theorem mem_destRegs_opFX65 {x r : Nibble} : r ∈ destRegs (.opFX65 x) ↔ r.toNat ≤ x.toNat := by
  have hr := r.isLt
  have hx := x.isLt
  simp only [destRegs, List.mem_map, List.mem_range]
  constructor
  · rintro ⟨k, hk, rfl⟩
    rw [BitVec.toNat_ofNat]
    omega
  · intro h
    exact ⟨r.toNat, by omega, by simp⟩

theorem execFX65_ends {x : Nibble} {s t : State} (h : exec (.opFX65 x) s = .next t) : Ends (.opFX65 x) s t := by
  obtain rfl := Host.Outcome.next.inj h
  obtain ⟨u, hu, hregs, hload⟩ := s.loadBlock_spec (encode (.opFX65 x)) (x.toNat + 1) 0 (by have := x.isLt; omega)
  have hwork : Worked (destRegs (.opFX65 x)) s u := by
    refine ⟨by rw [hu], by rw [hu]; exact ⟨rfl, rfl, rfl⟩, fun r hr => ?_⟩
    rw [mem_destRegs_opFX65] at hr
    rw [hregs, if_neg (by omega)]
  rw [hload]
  split
  · exact .advance rfl hwork
  · exact .raise hwork (by rw [hu]) ⟨nofun, nofun⟩

theorem exec00EE_ends {s t : State} (h : exec .op00EE s = .next t) : Ends .op00EE s t := by
  obtain rfl := Host.Outcome.next.inj h
  rcases s.pop_cases with ⟨h16, h17, hpos, hpop⟩ | ⟨h0, hpop⟩ <;> simp only [hpop]
  · exact .jumpTo ⟨rfl, ⟨rfl, rfl, rfl⟩, fun _ _ => rfl⟩ ⟨⟨s.sp.val - 1, h16⟩, by simp only; omega, rfl⟩
  · exact .raise (.refl s) rfl ⟨rfl, h0⟩

theorem exec2NNN_ends {nnn : Addr} {s t : State} (h : exec (.op2NNN nnn) s = .next t) : Ends (.op2NNN nnn) s t := by
  obtain rfl := Host.Outcome.next.inj h
  split
  · rcases s.push_cases (BitVec.ofNat 12 (s.pc.toNat + 2)) with ⟨_, hpush⟩ | ⟨hfull, hpush⟩ <;> simp only [hpush]
    · exact .jumpTo ⟨rfl, ⟨rfl, rfl, rfl⟩, fun _ _ => rfl⟩ rfl
    · exact .raise (.refl s) rfl ⟨⟨nnn, rfl⟩, hfull⟩
  · exact .raise (.refl s) rfl ⟨nofun, nofun⟩

theorem execDXYN_ends {x y n : Nibble} {s t : State} (h : exec (.opDXYN x y n) s = .next t) : Ends (.opDXYN x y n) s t := by
  obtain rfl := Host.Outcome.next.inj h
  split
  · exact .advance rfl ((Worked.drawSprite ..).trans (.writeV (by simp [destRegs, flagReg]) _ _))
  · exact .raise (.refl s) rfl ⟨nofun, nofun⟩

theorem execFX1E_ends {x : Nibble} {s t : State} (h : exec (.opFX1E x) s = .next t) : Ends (.opFX1E x) s t := by
  obtain rfl := Host.Outcome.next.inj h
  split
  · exact .advance rfl (.setI ..)
  · exact .raise (.refl s) rfl ⟨nofun, nofun⟩

/-- Everything an instruction can end in (R23, R178). -/
theorem exec_ends {i : Instr} {s t : State} (h : exec i s = .next t) : Ends i s t := by
  cases i with
  | op00EE => exact exec00EE_ends h
  | op2NNN => exact exec2NNN_ends h
  | opDXYN => exact execDXYN_ends h
  | opFX1E => exact execFX1E_ends h
  | opFX65 => exact execFX65_ends h
  | op1NNN => cases h; exact .jumpTo (.refl s) rfl
  | opBNNN => cases h; exact .setPc (.refl s) (Nat.add_comm ..)
  | op3XNN | op4XNN | op5XY0 | op9XY0 => cases h; exact .skipIf (.refl s) (by simp only [PcTarget]; grind)
  | opEX9E | opEXA1 => cases h; exact .skipIf (.isPressed ..) (by simp only [PcTarget]; grind)
  | opFX33 x => cases h; exact .storeBytes (i := .opFX33 x) rfl ⟨nofun, nofun⟩ ..
  | opFX55 x => cases h; exact .storeBytes (i := .opFX55 x) rfl ⟨nofun, nofun⟩ ..
  | op6XNN | op7XNN | op8XY0 | op8XY1 | op8XY2 | op8XY3 => cases h; exact .advance rfl (.writeV (by simp [destRegs]) ..)
  | op8XY4 | op8XY5 | op8XY6 | op8XY7 | op8XYE =>
    cases h
    exact .advance rfl ((Worked.writeV (by simp [destRegs, flagReg]) ..).trans (.writeV (by simp [destRegs, flagReg]) ..))
  | opCXNN => cases h; exact .advance rfl ((Worked.rngNext s).trans (.writeV (by simp [destRegs]) ..))
  | opFX07 => cases h; exact .advance rfl ((Worked.emit ..).trans (.writeV (by simp [destRegs]) ..))
  | op00E0 => cases h; exact .advance rfl (.emit ..)
  | opANNN | opFX29 => cases h; exact .advance rfl (.setI ..)
  | opFX15 => cases h; exact .advance rfl (.setDelay ..)
  | opFX18 => cases h; exact .advance rfl (.setSound ..)

/-- Settles O45: the work leaves the other registers alone, and neither end touches a register. -/
theorem onlyDestinationsChange : Obligations.OnlyDestinationsChange := by
  intro i s t h r hr
  cases exec_ends h with
  | setPc work => rw [State.setPc_readV, work.regs r hr]
  | raise work => rw [State.raise_readV, work.regs r hr]

/-- Where an instruction completes, `pc` is the target of the table. -/
theorem pcTarget_of_not_halted {i : Instr} {s t : State} (h : exec i s = .next t) (ht : t.halted = false) :
    PcTarget i s t.pc.toNat := by
  cases exec_ends h with
  | @setPc u n work target =>
    rcases State.setPc_cases n (encode i) u with ⟨hlt, -⟩ | ⟨-, he⟩
    · rwa [State.setPc_pc_of_lt _ hlt]
    · rw [he] at ht
      cases ht
  | raise _ _ cause => exact absurd (by simpa using ht) cause.ne_none

/-- Settles O46: the statement's table is `PcTarget`. -/
theorem pcMovesAsTabled : Obligations.PcMovesAsTabled := by
  intro i s t h ht
  have htarget := pcTarget_of_not_halted h ht
  refine ⟨fun hi => (pcTarget_of_sequential hi).mp htarget, ?_, ?_, ?_, ?_, ?_, ?_, ?_, ?_⟩
  · rintro rfl
    obtain ⟨k, hk, hpc⟩ := htarget
    exact ⟨k, hk, BitVec.eq_of_toNat_eq hpc⟩
  · rintro nnn (rfl | rfl) <;> exact BitVec.eq_of_toNat_eq htarget
  · rintro nnn rfl; exact htarget
  · rintro x nn rfl; exact htarget
  · rintro x nn rfl; exact htarget
  · rintro x y rfl; exact htarget
  · rintro x y rfl; exact htarget
  · rintro x (rfl | rfl) <;> exact htarget

end Sys2Proof.Machine
end

section
/-! PROOFS. The invariant (10_state.md R35; 60_exceptions.md R170 to R174, R178, R179): it holds where memory is canonical and no
fault is latched, and of each fault a step can raise the latch says what `State.Inv` asks for. -/

namespace Sys2Proof.Machine

open Sys2Proof

/-- Without a latched fault the invariant is the canonical form of memory. -/
theorem State.Inv.of_no_fault {s : State} (hmem : s.mem.wf = true) (hf : s.fault = .none) : s.Inv := by
  constructor <;> simp [hmem, hf, State.halted]

/-- Settles O55: memory is canonical at reset, and no fault is latched. -/
theorem invariantHoldsAtReset : Obligations.InvariantHoldsAtReset :=
  ⟨.of_no_fault rfl rfl, fun p _ _ => .of_no_fault (Memory.wf_initial p) rfl⟩

/-- An instruction keeps memory canonical, whether it completes or faults: what it stores it places (R52, R179). -/
theorem exec_wf {i : Instr} {s t : State} (h : exec i s = .next t) (hs : s.mem.wf = true) : t.mem.wf = true := by
  rcases exec_storage_cases h with hk | ⟨-, a, hk⟩ | ⟨-, stack, sp, hk⟩ | ⟨-, a, bs, hk⟩ <;> rw [hk.mem]
  · exact hs
  · exact hs
  · exact hs
  · exact Memory.wf_place hs a bs

/-! ### The faults -/

/-- A fetch faults at the last address only (R53, R174). -/
theorem State.pc_of_no_fetch {s : State} (h : s.fetch = none) : s.pc = 0xFFF := by
  rw [State.fetch_eq] at h
  have hlast : ¬ s.pc.toNat + 1 < Config.memSize := fun hlt => by simp [hlt] at h
  have hpc : s.pc.toNat < 4096 := s.pc.isLt
  apply BitVec.eq_of_toNat_eq
  change s.pc.toNat = 4095
  change ¬ s.pc.toNat + 1 < 4096 at hlast
  omega

/-- The fault of a fetch: its word is not valid, and nothing is asked of it (R174). -/
theorem State.Inv.raiseFetch {s : State} (hmem : s.mem.wf = true) (hfetch : s.fetch = none) : s.raiseFetch.Inv where
  memCanonical := hmem
  latchPc _ := rfl
  latchDecode := nofun
  latchUnderflow := nofun
  latchOverflow := nofun
  latchBounds _ hpc := absurd (State.pc_of_no_fetch hfetch) hpc

/-- The fault of a word that is no instruction (R171). -/
theorem State.Inv.raise_decodeError {s : State} {w : Word} (hmem : s.mem.wf = true) (hw : ∀ i, decode w ≠ .ok i) :
    (s.raise .decodeError w).Inv where
  memCanonical := hmem
  latchPc _ := rfl
  latchDecode _ := hw
  latchUnderflow := nofun
  latchOverflow := nofun
  latchBounds := nofun

/-- OutOfBounds of an instruction: the latched word decodes to it (R174, R86). -/
theorem State.Inv.raise_outOfBounds {s : State} (i : Instr) (hmem : s.mem.wf = true) :
    (s.raise .outOfBounds (encode i)).Inv where
  memCanonical := hmem
  latchPc _ := rfl
  latchDecode := nofun
  latchUnderflow := nofun
  latchOverflow := nofun
  latchBounds _ _ := ⟨i, decode_encode i⟩

/-- A fault of an instruction raised for one of its causes (R172 to R174). -/
theorem State.Inv.raise_of_cause {i : Instr} {s u : State} {k : FaultKind} (hmem : u.mem.wf = true) (hsp : u.sp = s.sp)
    (cause : CanRaise i s k) : (u.raise k (encode i)).Inv := by
  cases k with
  | none => exact cause.elim
  | decodeError => exact cause.elim
  | stackUnderflow =>
    obtain ⟨rfl, h0⟩ := cause
    exact ⟨hmem, fun _ => rfl, nofun, fun _ => ⟨rfl, hsp ▸ h0⟩, nofun, nofun⟩
  | stackOverflow =>
    obtain ⟨⟨nnn, rfl⟩, hfull⟩ := cause
    exact ⟨hmem, fun _ => rfl, nofun, nofun, fun _ => ⟨⟨nnn, decode_encode _⟩, hsp ▸ hfull⟩, nofun⟩
  | outOfBounds => exact .raise_outOfBounds i hmem

/-! ### The step -/

theorem exec_inv {i : Instr} {s t : State} (h : exec i s = .next t) (hmem : s.mem.wf = true) (hf : s.fault = .none) :
    t.Inv := by
  have ht := exec_wf h hmem
  cases exec_ends h with
  | @setPc u n work target =>
    obtain ⟨hfault, -, -⟩ := work.latch
    rw [State.setPc_mem] at ht
    rcases State.setPc_cases n (encode i) u with ⟨-, he⟩ | ⟨-, he⟩ <;> rw [he]
    · exact .of_no_fault ht (hfault.trans hf)
    · exact .raise_outOfBounds i ht
  | raise work sp cause => exact .raise_of_cause ht sp cause

theorem runOne_inv {s t : State} (h : runOne s = .next t) (hmem : s.mem.wf = true) (hf : s.fault = .none) : t.Inv := by
  cases hfetch : s.fetch with
  | none =>
    rw [runOne_of_no_fetch hfetch] at h
    cases h
    exact .raiseFetch hmem hfetch
  | some w =>
    cases hd : decode w with
    | error =>
      rw [runOne_of_invalid hfetch hd] at h
      cases h
      exact .raise_decodeError hmem (by simp [hd])
    | ok i =>
      rw [runOne_of_valid hfetch hd] at h
      exact exec_inv h hmem hf

/-- Settles O56: only a core without a latched fault steps, and the ticks leave its memory and its latch alone. -/
theorem stepKeepsInvariant : Obligations.StepKeepsInvariant := by
  intro s t hs h
  cases hhalt : s.halted with
  | true =>
    rw [step_of_halted hhalt] at h
    cases h
  | false =>
    rw [step_of_not_halted hhalt] at h
    exact runOne_inv h (by simpa using hs.memCanonical) (by simpa [State.halted] using hhalt)

end Sys2Proof.Machine
end

section
/-! PROOFS. The environment's move between two steps (60_exceptions.md R182): of the answers still to come it takes the ticks
alone. -/

namespace Sys2Proof.Machine

open Sys2Proof

@[simp] theorem State.betweenSteps_ticks (s : State) : s.betweenSteps.env.ticks = s.env.ticks.tail := by
  unfold State.betweenSteps State.takeTicks
  cases hq : s.env.ticks <;> simp [Env.tick, hq]

@[simp] theorem State.betweenSteps_randoms (s : State) : s.betweenSteps.env.randoms = s.env.randoms := by
  unfold State.betweenSteps State.takeTicks
  cases s.env.ticks <;> rfl

@[simp] theorem State.betweenSteps_presses (s : State) : s.betweenSteps.env.presses = s.env.presses := by
  unfold State.betweenSteps State.takeTicks
  cases s.env.ticks <;> rfl

@[simp] theorem State.betweenSteps_collisions (s : State) : s.betweenSteps.env.collisions = s.env.collisions := by
  unfold State.betweenSteps State.takeTicks
  cases s.env.ticks <;> rfl

/-- Of the core the move touches nothing (R12, R61). -/
theorem State.betweenSteps_keepsCore (s : State) : KeepsCore [] s s.betweenSteps := by
  simp [KeepsCore, KeepsRegs, KeepsStack, KeepsMemory, KeepsLatch]

/-- Settles O9: the two numbers are those `State.takeTicks` answers. -/
theorem betweenStepsOnlyTicks : Obligations.BetweenStepsOnlyTicks := fun s =>
  ⟨s.takeTicks.1, fun _ _ => State.takeTicks_queued, s.betweenSteps_dt_toNat, s.betweenSteps_st_toNat,
    s.betweenSteps_ticks, s.betweenSteps_randoms, s.betweenSteps_presses, s.betweenSteps_collisions,
    s.betweenSteps_trace, s.betweenSteps_pc, s.betweenSteps_keepsCore⟩

end Sys2Proof.Machine
end

section
/-! PROOFS. The canonical form determines the list of cells (log 33), and what memory holds after RESET (10_state.md R34,
70_reset_and_hazards.md R202; log 32). -/

namespace Sys2Proof.Machine

open Sys2Proof

/-! ### Canonical memories -/

/-- A listed cell reads as a byte that the address would not read as unlisted. -/
theorem Memory.read_head_ne_unlisted {lo k : Nat} {b : Byte} {m : Memory} (h : Memory.wfFrom lo ((k, b) :: m) = true) :
    Memory.read ((k, b) :: m) k ≠ Memory.unlisted k := by
  obtain ⟨-, -, hb, -⟩ := Memory.wfFrom_iff.mp h
  rwa [Memory.read, if_pos rfl]

/-- A canonical memory that reads like one whose cells all lie above `k` lists nothing at `k`. -/
theorem Memory.not_lt_of_read_eq {lo lo' k : Nat} {b : Byte} {m m' : Memory} (h : Memory.wfFrom lo ((k, b) :: m) = true)
    (h' : Memory.wfFrom lo' m' = true) (hread : Memory.read ((k, b) :: m) k = m'.read k) : ¬ k < lo' :=
  fun hk => Memory.read_head_ne_unlisted h (hread.trans (Memory.read_below h' hk))

/-- By induction on the cells: the first cells have one address, as the lower of two would be listed in one memory only. -/
theorem Memory.eq_of_read_eq {m m' : Memory} {lo lo' : Nat} (h : Memory.wfFrom lo m = true)
    (h' : Memory.wfFrom lo' m' = true) (hread : ∀ a, m.read a = m'.read a) : m = m' := by
  induction m generalizing m' lo lo' with
  | nil =>
    cases m' with
    | nil => rfl
    | cons c' m' => exact absurd (hread c'.1).symm (Memory.read_head_ne_unlisted h')
  | cons c m ih =>
    obtain ⟨k, b⟩ := c
    obtain ⟨-, hk, hb, hm⟩ := Memory.wfFrom_iff.mp h
    cases m' with
    | nil => exact absurd (hread k) (Memory.read_head_ne_unlisted h)
    | cons c' m' =>
      obtain ⟨k', b'⟩ := c'
      obtain ⟨-, hk', hb', hm'⟩ := Memory.wfFrom_iff.mp h'
      have hle := Memory.not_lt_of_read_eq h (Memory.wfFrom_iff.mpr ⟨le_rfl, hk', hb', hm'⟩) (hread k)
      have hge := Memory.not_lt_of_read_eq h' (Memory.wfFrom_iff.mpr ⟨le_rfl, hk, hb, hm⟩) (hread k').symm
      obtain rfl : k = k' := by omega
      have hbytes := hread k
      rw [Memory.read, Memory.read, if_pos rfl, if_pos rfl] at hbytes
      have htail : ∀ a, Memory.read m a = Memory.read m' a := by
        intro a
        by_cases ha : k = a
        · rw [Memory.read_below hm (by omega), Memory.read_below hm' (by omega)]
        · simpa only [Memory.read, if_neg ha] using hread a
      rw [hbytes, ih hm hm' htail]

/-- Settles O54: the canonical form leaves no choice of cells. -/
theorem canonicalMemoriesAreEqual : Obligations.CanonicalMemoriesAreEqual :=
  fun _ _ h h' hread => Memory.eq_of_read_eq h h' hread

/-! ### Memory after RESET -/

/-- R202 (1): every byte is 0. -/
theorem Memory.read_zeroed (a : Nat) : Memory.zeroed.read a = 0 := by
  rw [Memory.zeroed, Memory.read_place rfl, List.length_replicate]
  split
  · next ha => rw [List.getD_replicate _ (by omega)]
  · next ha =>
    rw [Memory.read_nil, Memory.unlisted]
    split
    · next hlt =>
      have hlen : conventionalFont.length ≤ Config.memSize := by decide
      exact absurd ⟨Nat.zero_le a, by omega, by omega⟩ ha
    · rfl

/-- The address lies under a glyph: a pair of its address and its bytes. -/
def GlyphCovers (g : Addr × List Byte) (a : Nat) : Prop := g.1.toNat ≤ a ∧ a < g.1.toNat + g.2.length

/-- An address under no glyph reads as before the glyphs are placed. -/
theorem Memory.read_placeGlyphs_outside {m : Memory} {gs : List (Addr × List Byte)} {a : Nat}
    (h : ∀ g ∈ gs, ¬ GlyphCovers g a) : (m.placeGlyphs gs).read a = m.read a := by
  induction gs generalizing m with
  | nil => rfl
  | cons g gs ih =>
    rw [Memory.placeGlyphs, ih fun g' hg' => h g' (List.mem_cons_of_mem g hg')]
    exact Memory.read_place_outside (h g List.mem_cons_self)

/-- A byte of a glyph is read back where no later glyph covers it (log 32). -/
theorem Memory.read_placeGlyphs {m : Memory} (hm : m.wf = true) {gs : List (Addr × List Byte)} {d : Nat}
    {g : Addr × List Byte} (hg : gs[d]? = some g) {k : Nat} {b : Byte} (hb : g.2[k]? = some b)
    (hfit : g.1.toNat + k < Config.memSize)
    (hlast : ∀ e g', d < e → gs[e]? = some g' → ¬ GlyphCovers g' (g.1.toNat + k)) :
    (m.placeGlyphs gs).read (g.1.toNat + k) = b := by
  induction gs generalizing m d with
  | nil => simp at hg
  | cons g₀ gs ih =>
    rw [Memory.placeGlyphs]
    cases d with
    | zero =>
      obtain rfl : g₀ = g := by simpa using hg
      obtain ⟨hk, hbk⟩ := List.getElem?_eq_some_iff.mp hb
      rw [Memory.read_placeGlyphs_outside, Memory.read_place hm, if_pos (by omega), Nat.add_sub_cancel_left,
        List.getD_eq_getElem _ _ hk, hbk]
      intro g' hg'
      obtain ⟨e, he⟩ := List.getElem?_of_mem hg'
      exact hlast (e + 1) g' (by omega) (by simpa using he)
    | succ d =>
      refine ih (Memory.wf_place hm _ _) (by simpa using hg) fun e g' hde he => ?_
      exact hlast (e + 1) g' (by omega) (by simpa using he)

/-- The list of glyphs RESET places, by digit. -/
theorem glyphList_getElem?_eq_some {p : Config.Params} {n : Nat} {g : Addr × List Byte} :
    (p.glyphAddr.toList.zip p.glyphs.toList)[n]? = some g ↔ ∃ d : Fin 16, d.val = n ∧ g = (p.glyphAddr[d], p.glyphs[d]) := by
  simp only [List.getElem?_eq_some_iff, List.getElem_zip, List.length_zip, Vector.length_toList, Vector.getElem_toList,
    Nat.min_self]
  constructor
  · rintro ⟨hn, rfl⟩
    exact ⟨⟨n, hn⟩, rfl, rfl⟩
  · rintro ⟨d, rfl, rfl⟩
    exact ⟨d.isLt, rfl⟩

theorem glyph_fits {p : Config.Params} (h : glyphsFit p = true) (d : Fin 16) :
    (p.glyphAddr[d]).toNat + (p.glyphs[d]).length ≤ Config.memSize :=
  of_decide_eq_true (List.all_eq_true.mp h d (List.mem_finRange d))

/-- Settles O51: memory after RESET is the glyphs placed over zeroes. -/
theorem resetInitialises : Obligations.ResetInitialises := by
  intro s
  refine ⟨rfl, rfl, rfl, fun r => ?_, rfl, rfl, rfl, fun a ha => ?_, fun hfit d k b hb hlast => ?_⟩
  · simp [State.doReset, State.resetWith, State.readV]
  · refine (Memory.read_placeGlyphs_outside fun g hg => ?_).trans (Memory.read_zeroed a)
    obtain ⟨n, hn⟩ := List.getElem?_of_mem hg
    obtain ⟨d, -, rfl⟩ := glyphList_getElem?_eq_some.mp hn
    exact ha d
  · have hk : k < (s.params.glyphs[d]).length := (List.getElem?_eq_some_iff.mp hb).1
    have hd := glyph_fits hfit d
    refine Memory.read_placeGlyphs (Memory.wf_place rfl _ _) (glyphList_getElem?_eq_some.mpr ⟨d, rfl, rfl⟩) hb
      (by simp only; omega) fun n g hn hg => ?_
    obtain ⟨e, rfl, rfl⟩ := glyphList_getElem?_eq_some.mp hg
    exact hlast e hn

end Sys2Proof.Machine
end

section
/-! PROOFS. The contracts of memory (20_memory.md): what `MemWrite` leaves behind (R52, R179), and the word a fetch reads or the
fault it raises (R53, R174). -/

namespace Sys2Proof.Machine

open Sys2Proof

/-! ### The write -/

/-- A placed byte that lies in memory is read back at its own address. -/
theorem State.placeBytes_byte_of_getElem? {s : State} (h : s.mem.wf = true) {a k : Nat} {b : Byte} {bs : List Byte}
    (hb : bs[k]? = some b) (hmem : a + k < Config.memSize) : (s.placeBytes a bs).byte (a + k) = b := by
  obtain ⟨hk, rfl⟩ := List.getElem?_eq_some_iff.mp hb
  rw [State.placeBytes_byte h, if_pos (by omega), Nat.add_sub_cancel_left, List.getD_eq_getElem _ _ hk]

theorem State.placeBytes_keepsBytes (a : Nat) (bs : List Byte) (s : State) : KeepsBytes a bs.length s (s.placeBytes a bs) :=
  fun _ => State.placeBytes_byte_outside

/-- Settles O53: either way memory is that of `State.placeBytes`; beyond its end the latch is written on top. -/
theorem memWriteContract : Obligations.MemWriteContract := by
  intro w a bytes s hs
  rw [State.storeBytes_eq]
  constructor
  · intro hfit
    refine ⟨s.placeBytes a bytes, if_pos hfit, fun k b hb => ?_, s.placeBytes_keepsBytes a bytes, rfl⟩
    obtain ⟨hk, -⟩ := List.getElem?_eq_some_iff.mp hb
    have hlen : a + bytes.length ≤ Config.memSize := hfit.resolve_left (by rintro rfl; simp at hk)
    exact State.placeBytes_byte_of_getElem? hs hb (by omega)
  · intro hne hlen
    exact ⟨(s.placeBytes a bytes).raise .outOfBounds w, if_neg (not_or.mpr ⟨hne, by omega⟩), rfl, rfl, rfl,
      fun _ _ hb hmem => State.placeBytes_byte_of_getElem? hs hb hmem, s.placeBytes_keepsBytes a bytes⟩

/-! ### The fetch -/

/-- The last address is the only one at which a fetch finds no complete word. -/
theorem State.fetch_eq_none_iff {s : State} : s.fetch = none ↔ s.pc = 0xFFF := by
  refine ⟨State.pc_of_no_fetch, fun hpc => ?_⟩
  rw [State.fetch_eq, hpc]
  exact if_neg (by decide)

/-- The word's high byte is the one at `pc`. -/
theorem State.toNat_of_fetch {s : State} {w : Word} (h : s.fetch = some w) :
    w.toNat = (s.byte s.pc.toNat).toNat * 256 + (s.byte (s.pc.toNat + 1)).toNat := by
  rw [State.fetch_eq] at h
  split at h
  · cases h
    exact toNat_append_eq _ _
  · cases h

/-- At the last address a step is the ticks and the fault of the fetch. -/
theorem step_of_last_pc {s : State} (h : s.halted = false) (hpc : s.pc = 0xFFF) :
    step s = .next s.betweenSteps.raiseFetch := by
  rw [step_of_not_halted h]
  exact runOne_of_no_fetch (State.fetch_eq_none_iff.mpr (s.betweenSteps_pc.trans hpc))

/-- Settles O10: of the core the ticks change nothing, and the fault of the fetch only the latch. -/
theorem fetchIsBigEndian : Obligations.FetchIsBigEndian := by
  intro s
  constructor
  · intro hpc
    obtain ⟨w, hw⟩ := Option.ne_none_iff_exists'.mp (mt State.fetch_eq_none_iff.mp hpc)
    exact ⟨w, hw, State.toNat_of_fetch hw⟩
  · intro hpc
    refine ⟨State.fetch_eq_none_iff.mpr hpc, fun hhalt => ⟨_, step_of_last_pc hhalt hpc, ?_⟩⟩
    obtain ⟨hregs, hi, hstack, hmem, -, hparams⟩ := s.betweenSteps_keepsCore
    have hinvalid : s.betweenSteps.raiseFetch.faultWordValid = false := by simp [State.faultWordValid, hpc]
    exact ⟨rfl, s.betweenSteps_pc.trans hpc, hinvalid, s.betweenSteps_pc, hregs, hi, hstack, hmem, hparams, rfl⟩

end Sys2Proof.Machine
end

section
/-! PROOFS. Fields, encoding and decoding (30_encoding.md R71, R76 to R82, R86): the word is put together again from the fields
its class uses, and each class with a secondary dispatch accepts the values of its own table. -/

namespace Sys2Proof

/-- Settles O1: each field is its slice as a number. -/
theorem fieldsAreBitSlices : Obligations.FieldsAreBitSlices := fun w =>
  ⟨fieldClass_toNat w, fieldX_toNat w, fieldY_toNat w, fieldN_toNat w, fieldNN_toNat w, fieldNNN_toNat w⟩

/-! ### Encoding and decoding -/

/-- Settles O2: the class nibble of the encoding selects the arm, and its fields are the operands. -/
theorem decodeOfEncode : Obligations.DecodeOfEncode := decode_encode

section
variable {w : Word} {c : Nibble}

theorem eq_of_class_nnn (hc : fieldClass w = c) : c ++ fieldNNN w = w := hc ▸ word_of_nnn w

theorem eq_of_class_xnn {nn : Byte} (hc : fieldClass w = c) (hnn : fieldNN w = nn) : c ++ fieldX w ++ nn = w :=
  hc ▸ hnn ▸ word_of_xnn w

theorem eq_of_class_xyn {n : Nibble} (hc : fieldClass w = c) (hn : fieldN w = n) : c ++ fieldX w ++ fieldY w ++ n = w :=
  hc ▸ hn ▸ word_of_xyn w

end

/-- Class 0 when it decodes (R75). -/
theorem decodeClass0_cases (w : Word) (i : Instr) (h : decodeClass0 w = .ok i) :
    (w = 0x00E0 ∧ i = .op00E0) ∨ (w = 0x00EE ∧ i = .op00EE) := by
  unfold decodeClass0 at h
  split at h
  · next hw => cases h; exact .inl ⟨hw, rfl⟩
  · split at h
    · next hw => cases h; exact .inr ⟨hw, rfl⟩
    · cases h

theorem encode_of_decode {w : Word} {i : Instr} (h : decode w = .ok i) : encode i = w := by
  rcases nibble_cases (fieldClass w) with
    hc | hc | hc | hc | hc | hc | hc | hc | hc | hc | hc | hc | hc | hc | hc | hc
  · rw [decode_class0 hc] at h
    rcases decodeClass0_cases w i h with ⟨rfl, rfl⟩ | ⟨rfl, rfl⟩ <;> rfl
  · rw [decode_class1 hc] at h; cases h; exact eq_of_class_nnn hc
  · rw [decode_class2 hc] at h; cases h; exact eq_of_class_nnn hc
  · rw [decode_class3 hc] at h; cases h; exact eq_of_class_xnn hc rfl
  · rw [decode_class4 hc] at h; cases h; exact eq_of_class_xnn hc rfl
  · rw [decode_class5 hc] at h
    split at h
    · next hn => cases h; exact eq_of_class_xyn hc hn
    · cases h
  · rw [decode_class6 hc] at h; cases h; exact eq_of_class_xnn hc rfl
  · rw [decode_class7 hc] at h; cases h; exact eq_of_class_xnn hc rfl
  · rw [decode_class8 hc] at h
    rcases decodeClass8_cases w i h with
      ⟨hn, rfl⟩ | ⟨hn, rfl⟩ | ⟨hn, rfl⟩ | ⟨hn, rfl⟩ | ⟨hn, rfl⟩ | ⟨hn, rfl⟩ | ⟨hn, rfl⟩ | ⟨hn, rfl⟩ | ⟨hn, rfl⟩ <;>
      exact eq_of_class_xyn hc hn
  · rw [decode_class9 hc] at h
    split at h
    · next hn => cases h; exact eq_of_class_xyn hc hn
    · cases h
  · rw [decode_classA hc] at h; cases h; exact eq_of_class_nnn hc
  · rw [decode_classB hc] at h; cases h; exact eq_of_class_nnn hc
  · rw [decode_classC hc] at h; cases h; exact eq_of_class_xnn hc rfl
  · rw [decode_classD hc] at h; cases h; exact eq_of_class_xyn hc rfl
  · rw [decode_classE hc] at h
    rcases decodeClassE_cases w i h with ⟨hnn, rfl⟩ | ⟨hnn, rfl⟩ <;> exact eq_of_class_xnn hc hnn
  · rw [decode_classF hc] at h
    rcases decodeClassF_cases w i h with
      ⟨hnn, rfl⟩ | ⟨hnn, rfl⟩ | ⟨hnn, rfl⟩ | ⟨hnn, rfl⟩ | ⟨hnn, rfl⟩ | ⟨hnn, rfl⟩ | ⟨hnn, rfl⟩ | ⟨hnn, rfl⟩ <;>
      exact eq_of_class_xnn hc hnn

/-- Settles O3: the fields that the instruction keeps are all of the word. -/
theorem encodeOfDecode : Obligations.EncodeOfDecode := fun _ _ => encode_of_decode

/-! ### The secondary dispatch of classes 8, E and F -/

/-- The values of N that class 8 rejects (R76, R81). -/
theorem decodeClass8_of_mem {w : Word} (h : fieldN w ∈ ([0x8, 0x9, 0xA, 0xB, 0xC, 0xD, 0xF] : List Nibble)) :
    decodeClass8 w = .error .invalidClass8 := by
  simp only [List.mem_cons, List.not_mem_nil, or_false] at h
  rcases h with hn | hn | hn | hn | hn | hn | hn <;> simp [decodeClass8, hn]

/-- The values of NN that class E rejects (R77, R81). -/
theorem decodeClassE_of_not_mem {w : Word} (h : fieldNN w ∉ ([0x9E, 0xA1] : List Byte)) :
    decodeClassE w = .error .invalidClassE := by
  unfold decodeClassE
  split
  case h_3 => rfl
  all_goals next hn => exact absurd (eq_of_toNat_eq_ofNat hn) (by intro hb; simp [hb] at h)

/-- The values of NN that class F rejects (R78, R81). -/
theorem decodeClassF_of_not_mem {w : Word}
    (h : fieldNN w ∉ ([0x07, 0x15, 0x18, 0x1E, 0x29, 0x33, 0x55, 0x65] : List Byte)) :
    decodeClassF w = .error .invalidClassF := by
  unfold decodeClassF
  split
  case h_9 => rfl
  all_goals next hn => exact absurd (eq_of_toNat_eq_ofNat hn) (by intro hb; simp [hb] at h)

/-- Settles O6: a listed value evaluates to its row, and no other value is accepted. -/
theorem secondaryDispatch : Obligations.SecondaryDispatch := by
  intro w
  refine ⟨fun hc => ?_, fun hc => ?_, fun hc => ?_⟩
  · rw [decode_class8 hc]
    refine ⟨?_, ?_, ?_, ?_, ?_, ?_, ?_, ?_, ?_, decodeClass8_of_mem⟩ <;> intro hn <;> simp [decodeClass8, hn]
  · rw [decode_classE hc]
    refine ⟨?_, ?_, decodeClassE_of_not_mem⟩ <;> intro hnn <;> simp [decodeClassE, hnn]
  · rw [decode_classF hc]
    refine ⟨?_, ?_, ?_, ?_, ?_, ?_, ?_, ?_, decodeClassF_of_not_mem⟩ <;> intro hnn <;> simp [decodeClassF, hnn]

/-! ### The invalid words -/

theorem decodeClass0_rejects_iff {w : Word} : (∀ i, decodeClass0 w ≠ .ok i) ↔ w ≠ 0x00E0 ∧ w ≠ 0x00EE := by
  constructor
  · intro h
    constructor <;> rintro rfl <;> exact h _ rfl
  · rintro ⟨hcls, hret⟩ i hi
    rcases decodeClass0_cases w i hi with ⟨hw, -⟩ | ⟨hw, -⟩
    · exact hcls hw
    · exact hret hw

theorem decodeClass8_rejects_iff {w : Word} :
    (∀ i, decodeClass8 w ≠ .ok i) ↔ fieldN w ∈ ([0x8, 0x9, 0xA, 0xB, 0xC, 0xD, 0xF] : List Nibble) := by
  constructor
  · intro h
    rcases nibble_cases (fieldN w) with
      hn | hn | hn | hn | hn | hn | hn | hn | hn | hn | hn | hn | hn | hn | hn | hn <;>
      simp [decodeClass8, hn] at h ⊢
  · intro h i hi
    rw [decodeClass8_of_mem h] at hi
    cases hi

theorem decodeClassE_rejects_iff {w : Word} :
    (∀ i, decodeClassE w ≠ .ok i) ↔ fieldNN w ∉ ([0x9E, 0xA1] : List Byte) := by
  constructor
  · intro h hmem
    simp only [List.mem_cons, List.not_mem_nil, or_false] at hmem
    rcases hmem with hnn | hnn <;> simp [decodeClassE, hnn] at h
  · intro h i hi
    rw [decodeClassE_of_not_mem h] at hi
    cases hi

theorem decodeClassF_rejects_iff {w : Word} :
    (∀ i, decodeClassF w ≠ .ok i) ↔
      fieldNN w ∉ ([0x07, 0x15, 0x18, 0x1E, 0x29, 0x33, 0x55, 0x65] : List Byte) := by
  constructor
  · intro h hmem
    simp only [List.mem_cons, List.not_mem_nil, or_false] at hmem
    rcases hmem with hnn | hnn | hnn | hnn | hnn | hnn | hnn | hnn <;> simp [decodeClassF, hnn] at h
  · intro h i hi
    rw [decodeClassF_of_not_mem h] at hi
    cases hi

/-- Settles O4: class by class, the words its dispatch rejects. -/
theorem invalidWordsExactly : Obligations.InvalidWordsExactly := by
  intro w
  rcases nibble_cases (fieldClass w) with
    hc | hc | hc | hc | hc | hc | hc | hc | hc | hc | hc | hc | hc | hc | hc | hc
  · simp only [decode_class0 hc, decodeClass0_rejects_iff, hc]; simp
  · simp [decode_class1 hc, hc]
  · simp [decode_class2 hc, hc]
  · simp [decode_class3 hc, hc]
  · simp [decode_class4 hc, hc]
  · by_cases hn : fieldN w = 0#4 <;> simp [decode_class5 hc, hc, hn]
  · simp [decode_class6 hc, hc]
  · simp [decode_class7 hc, hc]
  · simp only [decode_class8 hc, decodeClass8_rejects_iff, hc]; simp
  · by_cases hn : fieldN w = 0#4 <;> simp [decode_class9 hc, hc, hn]
  · simp [decode_classA hc, hc]
  · simp [decode_classB hc, hc]
  · simp [decode_classC hc, hc]
  · simp [decode_classD hc, hc]
  · simp only [decode_classE hc, decodeClassE_rejects_iff, hc]; simp
  · simp only [decode_classF hc, decodeClassF_rejects_iff, hc]; simp

end Sys2Proof
end

section
/-! PROOFS. The opcode map (30_encoding.md R80). The row a word decodes to depends on its deciding fields only: the class; N in
classes 5, 8 and 9; NN in classes E and F; the whole word in class 0. A row's mask covers the deciding fields, so a word that
selects a row decodes into the row of the row's own value. -/

namespace Sys2Proof

/-- The row number of the instruction a word decodes to. -/
def decodedRow (w : Word) : Except Reject Nat := (decode w).map Instr.rowNumber

theorem decodedRow_eq_ok_iff {w : Word} {n : Nat} : decodedRow w = .ok n ↔ ∃ i, decode w = .ok i ∧ i.rowNumber = n := by
  unfold decodedRow
  cases decode w <;> simp [Except.map]

/-- The deciding fields decide the row (R74 to R79). -/
theorem decodedRow_congr {w v : Word} (hclass : fieldClass w = fieldClass v) (hword : fieldClass v = 0x0 → w = v)
    (hN : fieldClass v ∈ ([0x5, 0x8, 0x9] : List Nibble) → fieldN w = fieldN v)
    (hNN : fieldClass v ∈ ([0xE, 0xF] : List Nibble) → fieldNN w = fieldNN v) : decodedRow w = decodedRow v := by
  unfold decodedRow
  rcases nibble_cases (fieldClass v) with
    hc | hc | hc | hc | hc | hc | hc | hc | hc | hc | hc | hc | hc | hc | hc | hc <;>
    have hcw := hclass.trans hc
  · rw [hword hc]
  · rw [decode_class1 hc, decode_class1 hcw]; rfl
  · rw [decode_class2 hc, decode_class2 hcw]; rfl
  · rw [decode_class3 hc, decode_class3 hcw]; rfl
  · rw [decode_class4 hc, decode_class4 hcw]; rfl
  · rw [decode_class5 hc, decode_class5 hcw, hN (by simp [hc])]; split <;> rfl
  · rw [decode_class6 hc, decode_class6 hcw]; rfl
  · rw [decode_class7 hc, decode_class7 hcw]; rfl
  · rw [decode_class8 hc, decode_class8 hcw, decodeClass8, decodeClass8, hN (by simp [hc])]; split <;> rfl
  · rw [decode_class9 hc, decode_class9 hcw, hN (by simp [hc])]; split <;> rfl
  · rw [decode_classA hc, decode_classA hcw]; rfl
  · rw [decode_classB hc, decode_classB hcw]; rfl
  · rw [decode_classC hc, decode_classC hcw]; rfl
  · rw [decode_classD hc, decode_classD hcw]; rfl
  · rw [decode_classE hc, decode_classE hcw, decodeClassE, decodeClassE, hNN (by simp [hc])]; split <;> rfl
  · rw [decode_classF hc, decode_classF hcw, decodeClassF, decodeClassF, hNN (by simp [hc])]; split <;> rfl

/-- A row's mask covers the deciding fields of its class. -/
theorem mask_covers_deciding_fields : ∀ r ∈ opcodeRows,
    fieldClass r.mask = 0xF ∧ (fieldClass r.value = 0x0 → r.mask = 0xFFFF) ∧
      (fieldClass r.value ∈ ([0x5, 0x8, 0x9] : List Nibble) → fieldN r.mask = 0xF) ∧
      (fieldClass r.value ∈ ([0xE, 0xF] : List Nibble) → fieldNN r.mask = 0xFF) := by
  decide

/-- A field that the mask covers is the field of the masked word. -/
theorem extractLsb'_and_of_covered {start len : Nat} {w m : Word} (h : m.extractLsb' start len = BitVec.allOnes len) :
    w.extractLsb' start len = (w &&& m).extractLsb' start len := by
  rw [BitVec.extractLsb'_and, h, BitVec.and_allOnes]

theorem decodedRow_of_selects {w : Word} {r : Row} (hr : r ∈ opcodeRows) (hsel : w &&& r.mask = r.value) :
    decodedRow w = decodedRow r.value := by
  obtain ⟨hclass, hword, hN, hNN⟩ := mask_covers_deciding_fields r hr
  rw [← hsel] at hword hN hNN ⊢
  exact decodedRow_congr (extractLsb'_and_of_covered hclass)
    (fun hc => by rw [hword hc]; exact BitVec.and_allOnes.symm)
    (fun hc => extractLsb'_and_of_covered (hN hc)) (fun hc => extractLsb'_and_of_covered (hNN hc))

/-- A row's own value decodes into the row. -/
theorem decodedRow_value {k : Nat} {r : Row} (hr : opcodeRows[k]? = some r) : decodedRow r.value = .ok (k + 1) := by
  have hall : ∀ k : Fin opcodeRows.length, decodedRow opcodeRows[k].value = .ok (k.val + 1) := by decide
  obtain ⟨hk, rfl⟩ := List.getElem?_eq_some_iff.mp hr
  exact hall ⟨k, hk⟩

open Laws.RowMatch in
/-- An instruction's word selects the instruction's row (R86 (e)). -/
theorem encode_selects_row (i : Instr) : Statement i := by
  cases i
  exacts [op00E0, op00EE, op1NNN _, op2NNN _, op3XNN _ _, op4XNN _ _, op5XY0 _ _, op6XNN _ _, op7XNN _ _, op8XY0 _ _,
    op8XY1 _ _, op8XY2 _ _, op8XY3 _ _, op8XY4 _ _, op8XY5 _ _, op8XY6 _ _, op8XY7 _ _, op8XYE _ _, op9XY0 _ _,
    opANNN _, opBNNN _, opCXNN _ _, opDXYN _ _ _, opEX9E _, opEXA1 _, opFX07 _, opFX15 _, opFX18 _, opFX1E _, opFX29 _,
    opFX33 _, opFX55 _, opFX65 _]

/-- Settles O5: a word that selects a row decodes into the row of its value, and a word that decodes is the encoding of its
instruction, which selects the instruction's row. -/
theorem rowSelectsInstruction : Obligations.RowSelectsInstruction := by
  intro w k r hr
  constructor
  · intro hsel
    exact decodedRow_eq_ok_iff.mp ((decodedRow_of_selects (List.mem_of_getElem? hr) hsel).trans (decodedRow_value hr))
  · rintro ⟨i, hi, hrow⟩
    obtain ⟨r', hr', hsel⟩ := encode_selects_row i
    rw [hrow, Nat.add_sub_cancel, hr] at hr'
    cases hr'
    rwa [encode_of_decode hi] at hsel

end Sys2Proof
end

section
/-! PROOFS. A step runs the instruction at `pc` (30_encoding.md R74): the ticks move neither `pc` nor memory, so the word fetched
after them is the one at `pc` before. -/

namespace Sys2Proof.Machine

open Sys2Proof

theorem State.betweenSteps_fetch (s : State) : s.betweenSteps.fetch = s.fetch := by
  simp [State.fetch_eq]

/-- Two bytes decode as their word (R70). -/
theorem decodeBytes_pair {hi lo : Byte} {i : Instr} {rest : List Byte} (h : decodeBytes [hi, lo] = .ok (i, rest)) :
    decode (wordOfBytes hi lo) = .ok i := by
  rw [decodeBytes] at h
  split at h
  · next hd => cases h; exact hd
  · cases h

/-- Settles O8: the fetch finds the word of the two bytes, and `runOne` is the instruction it decodes to. -/
theorem stepRunsDecodedInstruction : Obligations.StepRunsDecodedInstruction := by
  intro s i hhalt hpc hd
  have hfetch : s.betweenSteps.fetch = some (wordOfBytes (s.byte s.pc.toNat) (s.byte (s.pc.toNat + 1))) := by
    rw [s.betweenSteps_fetch, State.fetch_eq, if_pos hpc]
  rw [step_of_not_halted hhalt]
  exact runOne_of_valid hfetch (decodeBytes_pair hd)

end Sys2Proof.Machine
end

section
/-! PROOFS. Control transfer (40_flow.md R100 to R103; 60_exceptions.md R172 to R174): where the call stack has room or an entry,
and where it has none, CALL and RET are each one update of the state; what they keep is read off that update. -/

namespace Sys2Proof.Machine

open Sys2Proof

/-! ### What the two ends of a control transfer keep -/

/-- A fault writes the latch alone (R178, R179). -/
theorem raisedFrom_raise (kind : FaultKind) (w : Word) (s : State) : RaisedFrom kind w s (s.raise kind w) :=
  ⟨rfl, rfl, rfl, rfl, fun _ _ => rfl, rfl, ⟨rfl, rfl⟩, fun _ => rfl, rfl, rfl, rfl⟩

/-- A jump writes `pc` alone (R101). -/
theorem keepsRest_jumpTo (a : Addr) (s : State) : KeepsRest [] s (s.jumpTo a) :=
  ⟨fun _ _ => rfl, rfl, ⟨rfl, rfl⟩, fun _ => rfl, ⟨rfl, rfl, rfl⟩, rfl, rfl, rfl⟩

/-- Everything but `pc`, the stack entries and SP. -/
def KeepsOutsideStack (s t : State) : Prop :=
  KeepsRegs [] s t ∧ t.i = s.i ∧ KeepsMemory s t ∧ KeepsLatch s t ∧ t.params = s.params ∧ KeepsEnv s t

theorem keepsOutsideStack_of_update (pc : Addr) (stack : Vector Addr 16) (sp : Fin 17) (s : State) :
    KeepsOutsideStack s { s with pc, stack, sp } :=
  ⟨fun _ _ => rfl, rfl, fun _ => rfl, ⟨rfl, rfl, rfl⟩, rfl, rfl, rfl⟩

/-! ### The call stack -/

/-- `s` with `v` as entry `k` of the stack, and the entries up to it in use. -/
def State.pushedAt (k : Fin 16) (v : Addr) (s : State) : State := { s with stack := s.stack.set k v, sp := k.succ }

/-- `s` with the entries below `k` in use; the entries themselves stay (R26). -/
def State.poppedTo (k : Fin 16) (s : State) : State := { s with sp := k.castSucc }

theorem State.push_of_room {s : State} {k : Fin 16} (h : s.sp.val = k.val) (v : Addr) :
    s.push v = some (s.pushedAt k v) := by
  obtain ⟨k, hk⟩ := k
  obtain rfl : s.sp.val = k := h
  exact dif_pos hk

theorem State.push_of_full {s : State} (h : s.sp.val = 16) (v : Addr) : s.push v = none := by
  rcases s.push_cases v with ⟨hroom, -⟩ | ⟨-, hpush⟩
  · omega
  · exact hpush

theorem State.pop_of_entry {s : State} {k : Fin 16} (h : s.sp.val = k.val + 1) :
    s.pop = some (s.stack[k], s.poppedTo k) := by
  rcases s.pop_cases with ⟨hlt, _, -, hpop⟩ | ⟨hempty, -⟩
  · obtain rfl : k = ⟨s.sp.val - 1, hlt⟩ := Fin.ext (by simp only; omega)
    exact hpop
  · omega

theorem State.pop_of_empty {s : State} (h : s.sp.val = 0) : s.pop = none := if_pos h

/-- The pushed entry is the one at `k`, and no other entry changes (R26). -/
theorem State.pushedAt_stack (k j : Fin 16) (v : Addr) (s : State) :
    (s.pushedAt k v).stack[j] = if j = k then v else s.stack[j] := by
  simp [State.pushedAt, Vector.getElem_set, Fin.ext_iff, eq_comm]

/-! ### RET -/

theorem exec00EE_of_entry {s : State} {k : Fin 16} (h : s.sp.val = k.val + 1) :
    exec .op00EE s = .next ((s.poppedTo k).jumpTo s.stack[k]) := by
  simp only [exec, exec00EE, State.pop_of_entry h]

theorem exec00EE_of_empty {s : State} (h : s.sp.val = 0) :
    exec .op00EE s = .next (s.raise .stackUnderflow (encode .op00EE)) := by
  simp only [exec, exec00EE, State.pop_of_empty h]

/-- Settles O13: the entry is popped and jumped to, or the latch is written. -/
theorem returnPopsOrUnderflows : Obligations.ReturnPopsOrUnderflows := by
  refine ⟨fun w hw => ?_, fun s => ⟨fun k hk => ?_, fun h0 => ?_⟩⟩
  · rw [(masked_whole w _).mp hw]
    exact decode_encode .op00EE
  · exact ⟨_, exec00EE_of_entry hk, rfl, rfl, rfl, keepsOutsideStack_of_update ..⟩
  · exact ⟨_, exec00EE_of_empty h0, raisedFrom_raise ..⟩

/-! ### Jumps -/

/-- Settles O14: the words of class 1 are the jumps, and a jump writes `pc` alone. -/
theorem jumpSetsPc : Obligations.JumpSetsPc :=
  ⟨fun w hw => decode_class1 ((masked_class w 0x1).mp hw), fun nnn s => ⟨s.jumpTo nnn, rfl, rfl, keepsRest_jumpTo nnn s⟩⟩

/-- Settles O16: the assignment of the sum to `pc` is a jump where the sum is an address, and a fault where it is none. -/
theorem indexedJumpAddsV0 : Obligations.IndexedJumpAddsV0 := by
  refine fun nnn s => ⟨fun hlt => ⟨_, rfl, State.setPc_pc_of_lt _ hlt, ?_⟩, fun hge => ⟨_, rfl, ?_⟩⟩
  · rw [State.setPc_of_lt _ hlt]
    exact keepsRest_jumpTo ..
  · rw [State.setPc_of_ge _ hge]
    exact raisedFrom_raise ..

/-! ### CALL -/

section
variable {nnn : Addr} {s : State}

theorem exec2NNN_of_room {k : Fin 16} (hpc : s.pc.toNat + 2 < Config.memSize) (hk : s.sp.val = k.val) :
    exec (.op2NNN nnn) s = .next ((s.pushedAt k (BitVec.ofNat 12 (s.pc.toNat + 2))).jumpTo nnn) := by
  simp only [exec, exec2NNN, if_pos hpc, State.push_of_room hk]

theorem exec2NNN_of_full (hpc : s.pc.toNat + 2 < Config.memSize) (hfull : s.sp.val = 16) :
    exec (.op2NNN nnn) s = .next (s.raise .stackOverflow (encode (.op2NNN nnn))) := by
  simp only [exec, exec2NNN, if_pos hpc, State.push_of_full hfull]

theorem exec2NNN_of_ge (hpc : Config.memSize ≤ s.pc.toNat + 2) :
    exec (.op2NNN nnn) s = .next (s.raise .outOfBounds (encode (.op2NNN nnn))) := by
  simp only [exec, exec2NNN, if_neg (Nat.not_lt.mpr hpc)]

end

/-- Settles O15: the return address is checked before the stack, and each check that fails writes the latch. -/
theorem callPushesOrFaults : Obligations.CallPushesOrFaults := by
  refine fun nnn s => ⟨fun hpc k hk => ?_, fun hpc hfull => ?_, fun hpc => ?_⟩
  · have hstack := fun j => s.pushedAt_stack k j (BitVec.ofNat 12 (s.pc.toNat + 2))
    refine ⟨_, exec2NNN_of_room hpc hk, rfl, rfl, ?_, fun j hj => (hstack j).trans (if_neg hj),
      keepsOutsideStack_of_update ..⟩
    rw [State.jumpTo_stack, hstack, if_pos rfl, toNat_ofNat_addr hpc]
  · exact ⟨_, exec2NNN_of_full hpc hfull, raisedFrom_raise ..⟩
  · exact ⟨_, exec2NNN_of_ge hpc, raisedFrom_raise ..⟩

/-- Settles O49: RET takes the entry that CALL has just pushed, and below it CALL writes nothing. -/
theorem callThenReturnRestoresPc : Obligations.CallThenReturnRestoresPc := by
  intro nnn s hpc hroom
  obtain ⟨k, hk⟩ : ∃ k : Fin 16, s.sp.val = k.val := ⟨⟨_, hroom⟩, rfl⟩
  have hstack := fun j => s.pushedAt_stack k j (BitVec.ofNat 12 (s.pc.toNat + 2))
  refine ⟨_, _, exec2NNN_of_room hpc hk, exec00EE_of_entry (k := k) rfl, ?_, Fin.ext hk.symm, fun j hj => ?_,
    keepsOutsideStack_of_update ..⟩
  · rw [State.jumpTo_pc, State.jumpTo_stack, hstack, if_pos rfl, toNat_ofNat_addr hpc]
  · exact (hstack j).trans (if_neg (Fin.ne_of_lt (hj.trans_eq hk)))

end Sys2Proof.Machine
end

section
/-! PROOFS. Skips (41_skip.md R110 to R114; 44_peripheral.md R153, R154): a skip is one assignment to `pc`, which writes `pc`
alone where the target is an address and the latch alone where it is none. EX9E and EXA1 make it after their transaction, which
keeps the core. -/

namespace Sys2Proof.Machine

open Sys2Proof

/-! ### Skips on registers -/

/-- R114 for an instruction that moves `pc` by `n` and does nothing else: it goes there, or raises OutOfBounds (D3). -/
def SkipsBy (i : Instr) (s : State) (n : Nat) : Prop :=
  (s.pc.toNat + n < Config.memSize → ∃ t, exec i s = .next t ∧ t.pc.toNat = s.pc.toNat + n ∧ KeepsRest [] s t) ∧
    (Config.memSize ≤ s.pc.toNat + n → ∃ t, exec i s = .next t ∧ RaisedFrom .outOfBounds (encode i) s t)

theorem skipsBy_of_exec {i : Instr} {s : State} {c : Bool} (h : exec i s = .next (s.skipIf c (encode i))) :
    SkipsBy i s (if c then 4 else 2) := by
  refine ⟨fun hlt => ⟨_, h, State.skipIf_pc_of_lt c _ hlt, ?_⟩, fun hge => ⟨_, h, ?_⟩⟩
  · rw [State.skipIf_of_lt c _ hlt]
    exact keepsRest_jumpTo ..
  · rw [State.skipIf_of_ge c _ hge]
    exact raisedFrom_raise ..

section
variable (x y : Nibble) (nn : Byte) (s : State)

theorem skipsBy_op3XNN : SkipsBy (.op3XNN x nn) s (if s.readV x = nn then 4 else 2) := by
  simpa using skipsBy_of_exec (i := .op3XNN x nn) (s := s) rfl

theorem skipsBy_op4XNN : SkipsBy (.op4XNN x nn) s (if s.readV x = nn then 2 else 4) := by
  simpa using skipsBy_of_exec (i := .op4XNN x nn) (s := s) rfl

theorem skipsBy_op5XY0 : SkipsBy (.op5XY0 x y) s (if s.readV x = s.readV y then 4 else 2) := by
  simpa using skipsBy_of_exec (i := .op5XY0 x y) (s := s) rfl

theorem skipsBy_op9XY0 : SkipsBy (.op9XY0 x y) s (if s.readV x = s.readV y then 2 else 4) := by
  simpa using skipsBy_of_exec (i := .op9XY0 x y) (s := s) rfl

end

/-- Settles O17: both skips on an immediate are one assignment to `pc`. -/
theorem skipOnImmediate : Obligations.SkipOnImmediate := by
  intro x nn s
  obtain ⟨hse, hseBeyond⟩ := skipsBy_op3XNN x nn s
  exact ⟨hse, hseBeyond, skipsBy_op4XNN x nn s⟩

/-- Settles O18: both skips on two registers are one assignment to `pc`. -/
theorem skipOnRegisters : Obligations.SkipOnRegisters := by
  intro x y s
  obtain ⟨hse, hseBeyond⟩ := skipsBy_op5XY0 x y s
  exact ⟨hse, hseBeyond, skipsBy_op9XY0 x y s⟩

/-! ### The keypad's transaction -/

/-- The answer is taken from the queue, where there is one, and nothing else of the environment changes (R10). -/
theorem State.takePressed_env (k : Byte) (s : State) :
    (s.takePressed k).2.env = { s.env with presses := s.env.presses.tail } := by
  unfold State.takePressed
  split
  next p rest hqueue => rw [hqueue, List.tail_cons]
  next hqueue => rw [hqueue, List.tail_nil, ← hqueue]

/-- What the transaction leaves of the environment (R33, R153). -/
theorem State.isPressed_env (k : Byte) (s : State) :
    (s.isPressed k).2.env =
      { s.env with
        presses := s.env.presses.tail
        trace := s.env.trace ++ [.isPressed k (s.isPressed k).1] } := by
  simp only [State.isPressed, State.emit, State.takePressed_env]

/-- Work that keeps the storage keeps the core but for its destination registers. -/
theorem Worked.keepsCore {rs : List Nibble} {s u : State} (work : Worked rs s u) (storage : KeepsStorage s u) :
    KeepsCore rs s u :=
  ⟨work.regs, storage.i, storage.keepsStack, storage.keepsMemory, work.latch, storage.params⟩

theorem State.isPressed_keepsCore (k : Byte) (s : State) : KeepsCore [] s (s.isPressed k).2 :=
  (Worked.isPressed k s).keepsCore (.isPressed k s)

/-! ### Skips on a key -/

/-- The core of `t` is that of `s` after `raise kind` with the word `w` and nothing else; the environment may differ, as it does
where a transaction went before the fault (R179). -/
def CoreRaisedFrom (kind : FaultKind) (w : Word) (s t : State) : Prop :=
  t.fault = kind ∧ t.faultPc = s.pc ∧ t.faultWord = w ∧ t.pc = s.pc ∧ KeepsRegs [] s t ∧ t.i = s.i ∧
    KeepsStack s t ∧ KeepsMemory s t ∧ t.params = s.params

section
variable {c : Bool} (k : Byte) (w : Word) {s : State}

/-- A skip after the transaction whose target is an address (R114). -/
theorem State.isPressed_skipIf_of_lt (h : s.pc.toNat + (if c then 4 else 2) < Config.memSize) :
    ((s.isPressed k).2.skipIf c w).pc.toNat = s.pc.toNat + (if c then 4 else 2) ∧
      KeepsCore [] s ((s.isPressed k).2.skipIf c w) := by
  rw [← State.isPressed_pc k s] at h
  refine ⟨(State.skipIf_pc_of_lt c w h).trans (by rw [State.isPressed_pc]), ?_⟩
  rw [State.skipIf_of_lt c w h]
  exact s.isPressed_keepsCore k

/-- A skip after the transaction whose target is no address: the transaction stays made (R114; D3, D8). -/
theorem State.isPressed_skipIf_of_ge (h : Config.memSize ≤ s.pc.toNat + (if c then 4 else 2)) :
    CoreRaisedFrom .outOfBounds w s ((s.isPressed k).2.skipIf c w) := by
  have hpc := State.isPressed_pc k s
  obtain ⟨hregs, hi, hstack, hmem, -, hparams⟩ := s.isPressed_keepsCore k
  rw [← hpc] at h
  rw [State.skipIf_of_ge c w h]
  exact ⟨rfl, hpc, rfl, hpc, hregs, hi, hstack, hmem, hparams⟩

/-- The target `pc + 2` is taken where the condition fails, also where `pc + 4` is no address. -/
theorem State.isPressed_skipIf_short (hc : c = false) (h : s.pc.toNat + 2 < Config.memSize) :
    ((s.isPressed k).2.skipIf c w).pc.toNat = s.pc.toNat + 2 ∧ KeepsCore [] s ((s.isPressed k).2.skipIf c w) := by
  subst hc
  exact State.isPressed_skipIf_of_lt (c := false) k w h

/-- Where `pc + 4` is no address, a skip raises if the condition holds or `pc + 2` is no address either. -/
theorem State.isPressed_skipIf_beyond (hend : Config.memSize ≤ s.pc.toNat + 4)
    (h : c = true ∨ Config.memSize ≤ s.pc.toNat + 2) :
    CoreRaisedFrom .outOfBounds w s ((s.isPressed k).2.skipIf c w) := by
  refine State.isPressed_skipIf_of_ge k w ?_
  cases c with
  | true => exact hend
  | false => exact h.resolve_left Bool.false_ne_true

end

/-- Settles O38: the transaction comes first, and the skip on its answer, or on the answer negated, ends as R114 says. -/
theorem skipOnKeyAtTheEnd : Obligations.SkipOnKeyAtTheEnd := by
  intro x s hend
  refine ⟨(s.isPressed (s.readV x)).1, fun b rest hqueue => State.isPressed_queued _ hqueue,
    ⟨_, rfl, (State.skipIf_env ..).trans (s.isPressed_env _), fun hp hlt => ?_, fun hbeyond => ?_⟩,
    ⟨_, rfl, (State.skipIf_env ..).trans (s.isPressed_env _), fun hp hlt => ?_, fun hbeyond => ?_⟩⟩
  · exact State.isPressed_skipIf_short _ _ hp hlt
  · exact State.isPressed_skipIf_beyond _ _ hend hbeyond
  · exact State.isPressed_skipIf_short _ _ (congrArg not hp) hlt
  · exact State.isPressed_skipIf_beyond _ _ hend (hbeyond.imp_left (congrArg not))

end Sys2Proof.Machine
end

section
/-! PROOFS. Register load, arithmetic, logic and shift (42_alu.md R120 to R132). Each instruction is one or two register writes
and then `pc <- pc + 2`; where the flag and the result go to one register, the later write stays (R132, D6). -/

namespace Sys2Proof.Machine

open Sys2Proof

/-! ### What register writes and the `pc` update keep -/

namespace KeepsRest

variable {rs : List Nibble} {r : Nibble} {s u : State}

theorem refl (s : State) : KeepsRest rs s s :=
  ⟨fun _ _ => rfl, rfl, ⟨rfl, rfl⟩, fun _ => rfl, ⟨rfl, rfl, rfl⟩, rfl, rfl, rfl⟩

/-- A write to a listed register. -/
theorem writeV (h : KeepsRest rs s u) (hr : r ∈ rs) (b : Byte) : KeepsRest rs s (u.writeV r b) := by
  obtain ⟨hregs, hrest⟩ := h
  exact ⟨fun q hq => ((Worked.writeV hr b u).regs q hq).trans (hregs q hq), hrest⟩

/-- The `pc` update where `pc + 2` is an address (R23). -/
theorem advance (h : KeepsRest rs s u) (w : Word) (hlt : u.pc.toNat + 2 < Config.memSize) :
    KeepsRest rs s (u.advance w) := by
  rw [State.advance_of_lt w hlt]
  exact h

end KeepsRest

/-! ### The three shapes of a meaning -/

section
variable {i : Instr} {x : Nibble} {b f : Byte} {s : State}

/-- A result and no flag. -/
theorem exec_of_result (hlt : s.pc.toNat + 2 < Config.memSize)
    (h : exec i s = .next ((s.writeV x b).advance (encode i))) :
    ∃ t, exec i s = .next t ∧ t.readV x = b ∧ t.pc.toNat = s.pc.toNat + 2 ∧ KeepsRest [x] s t := by
  have hkeep : KeepsRest [x] s (s.writeV x b) := (KeepsRest.refl s).writeV (by simp) b
  exact ⟨_, h, by simp, State.advance_pc_of_lt _ hlt, hkeep.advance _ hlt⟩

/-- A result and then a flag: in VF the flag stays. -/
theorem exec_of_result_then_flag (hlt : s.pc.toNat + 2 < Config.memSize)
    (h : exec i s = .next (((s.writeV x b).writeV flagReg f).advance (encode i))) :
    ∃ t, exec i s = .next t ∧ t.readV 0xF = f ∧ (x ≠ 0xF → t.readV x = b) ∧ t.pc.toNat = s.pc.toNat + 2 ∧
      KeepsRest [x, 0xF] s t := by
  have hkeep : KeepsRest [x, flagReg] s ((s.writeV x b).writeV flagReg f) :=
    ((KeepsRest.refl s).writeV (by simp) b).writeV (by simp) f
  refine ⟨_, h, ?_, fun hx => ?_, State.advance_pc_of_lt _ hlt, hkeep.advance _ hlt⟩ <;> rw [State.advance_readV]
  · exact State.readV_writeV_self flagReg f _
  · exact (State.readV_writeV_ne hx f _).trans (State.readV_writeV_self ..)

/-- A flag and then a result: in VF the result stays. -/
theorem exec_of_flag_then_result (hlt : s.pc.toNat + 2 < Config.memSize)
    (h : exec i s = .next (((s.writeV flagReg f).writeV x b).advance (encode i))) :
    ∃ t, exec i s = .next t ∧ (x ≠ 0xF → t.readV 0xF = f) ∧ t.readV x = b ∧ t.pc.toNat = s.pc.toNat + 2 ∧
      KeepsRest [x, 0xF] s t := by
  have hkeep : KeepsRest [x, flagReg] s ((s.writeV flagReg f).writeV x b) :=
    ((KeepsRest.refl s).writeV (by simp) f).writeV (by simp) b
  refine ⟨_, h, fun hx => ?_, ?_, State.advance_pc_of_lt _ hlt, hkeep.advance _ hlt⟩ <;> rw [State.advance_readV]
  · exact (State.readV_writeV_ne hx.symm b _).trans (State.readV_writeV_self flagReg f s)
  · exact State.readV_writeV_self ..

end

/-- A word of class 8 decodes to the instruction that its `N`, `X` and `Y` encode (R76). -/
theorem decode_of_masked_class8 {w : Word} {n : Nibble} {i : Instr}
    (h : w &&& 0xF00F#16 = 0x8#4 ++ 0#4 ++ 0#4 ++ n) (hi : encode i = 0x8#4 ++ fieldX w ++ fieldY w ++ n) :
    decode w = .ok i := by
  obtain ⟨hc, hn⟩ := (masked_class_n w 0x8#4 n).mp h
  rw [← eq_of_class_xyn hc hn, ← hi]
  exact decode_encode i

/-! ### Load, addition without a flag, move, logic -/

/-- Settles O19: the result is NN. -/
theorem loadImmediate : Obligations.LoadImmediate :=
  ⟨fun w hw => decode_class6 ((masked_class w 0x6).mp hw), fun _ _ _ hlt => exec_of_result hlt rfl⟩

/-- Settles O20: the result is the exact sum, stored modulo 256. -/
theorem addImmediateWraps : Obligations.AddImmediateWraps := by
  refine ⟨fun w hw => decode_class7 ((masked_class w 0x7).mp hw), fun x nn s hlt => ?_⟩
  obtain ⟨t, ht, hx, hrest⟩ := exec_of_result (i := .op7XNN x nn) hlt rfl
  exact ⟨t, ht, hx ▸ trunc8_natCast_toNat _, hrest⟩

/-- Settles O21: the result is V[Y]. -/
theorem registerMove : Obligations.RegisterMove :=
  ⟨fun _ hw => decode_of_masked_class8 (n := 0x0) hw rfl, fun _ _ _ hlt => exec_of_result hlt rfl⟩

/-- Settles O22: the results are the bitwise operations on the two registers. -/
theorem bitwiseLogic : Obligations.BitwiseLogic := by
  refine ⟨fun w => ⟨fun hw => decode_of_masked_class8 (n := 0x1) hw rfl,
    fun hw => decode_of_masked_class8 (n := 0x2) hw rfl, fun hw => decode_of_masked_class8 (n := 0x3) hw rfl⟩,
    fun x y s hlt => ⟨?_, ?_, ?_⟩⟩
  · obtain ⟨t, ht, hx, hrest⟩ := exec_of_result (i := .op8XY1 x y) hlt rfl
    exact ⟨t, ht, fun _ => hx ▸ BitVec.getLsbD_or, hrest⟩
  · obtain ⟨t, ht, hx, hrest⟩ := exec_of_result (i := .op8XY2 x y) hlt rfl
    exact ⟨t, ht, fun _ => hx ▸ BitVec.getLsbD_and, hrest⟩
  · obtain ⟨t, ht, hx, hrest⟩ := exec_of_result (i := .op8XY3 x y) hlt rfl
    exact ⟨t, ht, fun _ => hx ▸ BitVec.getLsbD_xor, hrest⟩

/-! ### Addition, subtraction and shifts with a flag -/

/-- Settles O23: the carry is written after the sum, and so it stays in VF. -/
theorem addSetsCarry : Obligations.AddSetsCarry := by
  refine ⟨fun w hw => decode_of_masked_class8 (n := 0x4) hw rfl, fun x y s hlt => ?_⟩
  obtain ⟨t, ht, hflag, hx, hrest⟩ := exec_of_result_then_flag (i := .op8XY4 x y) hlt rfl
  exact ⟨t, ht, hflag.trans (carryFlag_eq ..), fun hne => hx hne ▸ trunc8_natCast_toNat _, hrest⟩

/-- Settles O24: the difference is written after the flag, and so it stays in VF. -/
theorem subtractSetsNoBorrow : Obligations.SubtractSetsNoBorrow := by
  refine ⟨fun w hw => decode_of_masked_class8 (n := 0x5) hw rfl, fun x y s hlt => ?_⟩
  obtain ⟨t, ht, hflag, hx, hrest⟩ := exec_of_flag_then_result (i := .op8XY5 x y) hlt rfl
  exact ⟨t, ht, fun hne => (hflag hne).trans (noBorrowFlag_eq ..), hx ▸ trunc8_exactDiff_toNat .., hrest⟩

/-- Settles O25: half of a byte's value fits in a byte, so it is stored exactly. -/
theorem shiftRightSetsLowBit : Obligations.ShiftRightSetsLowBit := by
  refine ⟨fun w hw => decode_of_masked_class8 (n := 0x6) hw rfl, fun x y s hlt => ?_⟩
  obtain ⟨t, ht, hflag, hx, hrest⟩ := exec_of_flag_then_result (i := .op8XY6 x y) hlt rfl
  have hhalf : (s.readV x).toNat / 2 < 2 ^ 8 := (Nat.div_le_self ..).trans_lt (s.readV x).isLt
  exact ⟨t, ht, fun hne => hflag hne ▸ lowBitFlag_toNat _, hx ▸ Nat.mod_eq_of_lt hhalf, hrest⟩

/-- Settles O26: minuend and subtrahend are exchanged in the flag as in the difference. -/
theorem reverseSubtractSetsNoBorrow : Obligations.ReverseSubtractSetsNoBorrow := by
  refine ⟨fun w hw => decode_of_masked_class8 (n := 0x7) hw rfl, fun x y s hlt => ?_⟩
  obtain ⟨t, ht, hflag, hx, hrest⟩ := exec_of_flag_then_result (i := .op8XY7 x y) hlt rfl
  exact ⟨t, ht, fun hne => (hflag hne).trans (noBorrowFlag_eq ..), hx ▸ trunc8_exactDiff_toNat .., hrest⟩

/-- Settles O27: the double is stored modulo 256. -/
theorem shiftLeftSetsHighBit : Obligations.ShiftLeftSetsHighBit := by
  refine ⟨fun w hw => decode_of_masked_class8 (n := 0xE) hw rfl, fun x y s hlt => ?_⟩
  obtain ⟨t, ht, hflag, hx, hrest⟩ := exec_of_flag_then_result (i := .op8XYE x y) hlt rfl
  exact ⟨t, ht, fun hne => hflag hne ▸ highBitFlag_toNat _, hx ▸ trunc8_natCast_toNat (_ * 2), hrest⟩

end Sys2Proof.Machine
end

section
/-! PROOFS. The index register, loads and stores (43_index_memory.md R140 to R146). An assignment to `I`, a store from I on and the
load of the register block each end in `pc <- pc + 2`, or in OutOfBounds with the bytes below the end of memory moved (R179, D8). -/

namespace Sys2Proof.Machine

open Sys2Proof

/-- The end of an instruction after its work `u` where `pc + 2` is an address (R23). -/
theorem exec_of_advance {i : Instr} {s u : State} (h : exec i s = .next (u.advance (encode i)))
    (hlt : u.pc.toNat + 2 < Config.memSize) : ∃ a : Addr, a.toNat = u.pc.toNat + 2 ∧ exec i s = .next (u.jumpTo a) :=
  ⟨_, toNat_ofNat_addr hlt, h.trans (congrArg _ (State.advance_of_lt _ hlt))⟩

/-! ### Stores from I on -/

section
variable {i : Instr} {bs : List Byte} {s : State}

/-- A store that fits: the bytes lie from I on, and of everything else only `pc` moves. -/
theorem exec_of_store_within (hs : s.mem.wf = true) (hfit : s.dataAddr bs.length ≤ Config.memSize)
    (hlt : s.pc.toNat + 2 < Config.memSize)
    (h : exec i s = .next ((s.storeBytes (encode i) (s.dataAddr 0) bs).andThen (State.advance (encode i)))) :
    ∃ t, exec i s = .next t ∧ (∀ k b, bs[k]? = some b → t.byte (s.dataAddr k) = b) ∧
      KeepsBytes (s.dataAddr 0) bs.length s t ∧ t.pc.toNat = s.pc.toNat + 2 ∧ KeepsRegs [] s t ∧ t.i = s.i ∧
      KeepsStack s t ∧ KeepsLatch s t ∧ t.params = s.params ∧ KeepsEnv s t := by
  rw [State.storeBytes_eq, if_pos (.inr hfit), Progress.done_andThen] at h
  obtain ⟨a, hpc, h⟩ := exec_of_advance h hlt
  refine ⟨_, h, fun k b hb => ?_, s.placeBytes_keepsBytes _ bs, hpc, fun _ _ => rfl, rfl, ⟨rfl, rfl⟩, ⟨rfl, rfl, rfl⟩,
    rfl, rfl, rfl⟩
  obtain ⟨hk, -⟩ := List.getElem?_eq_some_iff.mp hb
  exact State.placeBytes_byte_of_getElem? hs hb ((Nat.add_lt_add_left hk _).trans_le hfit)

/-- A store that does not fit: the bytes below the end of memory lie from I on, and of everything else only the latch is
written. -/
theorem exec_of_store_beyond (hs : s.mem.wf = true) (hbeyond : Config.memSize < s.dataAddr bs.length)
    (h : exec i s = .next ((s.storeBytes (encode i) (s.dataAddr 0) bs).andThen (State.advance (encode i)))) :
    ∃ t, exec i s = .next t ∧ t.fault = .outOfBounds ∧ t.faultPc = s.pc ∧ t.faultWord = encode i ∧ t.pc = s.pc ∧
      (∀ k b, bs[k]? = some b → s.dataAddr k < Config.memSize → t.byte (s.dataAddr k) = b) ∧
      KeepsBytes (s.dataAddr 0) bs.length s t ∧ KeepsRegs [] s t ∧ t.i = s.i ∧ KeepsStack s t ∧ t.params = s.params ∧
      KeepsEnv s t := by
  have hne : bs ≠ [] := by
    rintro rfl
    exact Nat.lt_asymm hbeyond s.i.isLt
  have hno : ¬ (bs = [] ∨ s.dataAddr 0 + bs.length ≤ Config.memSize) := not_or.mpr ⟨hne, Nat.not_le.mpr hbeyond⟩
  rw [State.storeBytes_eq, if_neg hno, Progress.raised_andThen] at h
  exact ⟨_, h, rfl, rfl, rfl, rfl, fun _ _ hb hmem => State.placeBytes_byte_of_getElem? hs hb hmem,
    s.placeBytes_keepsBytes _ bs, fun _ _ => rfl, rfl, ⟨rfl, rfl⟩, rfl, rfl, rfl⟩

end

/-- The three digits as numbers (R143): each fits in a byte. -/
theorem decimalDigits_eq (a : Byte) : ∃ hundreds tens ones : Byte, decimalDigits a = [hundreds, tens, ones] ∧
    hundreds.toNat = a.toNat / 100 ∧ tens.toNat = a.toNat / 10 % 10 ∧ ones.toNat = a.toNat % 10 := by
  have ha := a.isLt
  refine ⟨_, _, _, rfl, ?_, ?_, ?_⟩ <;> rw [BitVec.toNat_ofNat] <;> omega

/-- Settles O31: the three digits are stored from I on. -/
theorem decimalDigitsStored : Obligations.DecimalDigitsStored := by
  intro x s hs
  obtain ⟨hundreds, tens, ones, hdigits, hh, ht, ho⟩ := decimalDigits_eq (s.readV x)
  have hexec : exec (.opFX33 x) s = .next ((s.storeBytes (encode (.opFX33 x)) (s.dataAddr 0) [hundreds, tens, ones]).andThen
      (State.advance (encode (.opFX33 x)))) := hdigits ▸ rfl
  constructor
  · intro hfit hlt
    obtain ⟨t, hnext, hbytes, hrest⟩ := exec_of_store_within (bs := [hundreds, tens, ones]) hs hfit hlt hexec
    exact ⟨t, hnext, hbytes 0 _ rfl ▸ hh, hbytes 1 _ rfl ▸ ht, hbytes 2 _ rfl ▸ ho, hrest⟩
  · intro hend
    obtain ⟨t, hnext, hfault, hpc, hword, hkeep, hbytes, hrest⟩ :=
      exec_of_store_beyond (bs := [hundreds, tens, ones]) hs (Nat.lt_succ_of_le hend) hexec
    exact ⟨t, hnext, hfault, hpc, hword, hkeep, hbytes 0 _ rfl s.i.isLt ▸ hh, fun h1 => hbytes 1 _ rfl h1 ▸ ht, hrest⟩

theorem State.blockValues_getElem? {x r : Nibble} (s : State) (h : r.toNat ≤ x.toNat) :
    (s.blockValues x)[r.toNat]? = some (s.readV r) := by
  have hr : r.toNat < (s.blockValues x).length := by rw [State.blockValues_length]; omega
  rw [List.getElem?_eq_getElem hr, ← List.getD_eq_getElem _ 0 hr, State.blockValues_getD _ _ _ h]

/-- Settles O32: the values of the register block are stored from I on. -/
theorem registersStored : Obligations.RegistersStored := by
  intro x s hs
  have hlen := s.blockValues_length x
  constructor
  · intro hfit hlt
    obtain ⟨t, hnext, hbytes, hrest⟩ :=
      exec_of_store_within (i := .opFX55 x) (bs := s.blockValues x) hs (hlen ▸ hfit) hlt rfl
    exact ⟨t, hnext, fun r hr => hbytes _ _ (s.blockValues_getElem? hr), hlen ▸ hrest⟩
  · intro hend
    obtain ⟨t, hnext, hfault, hpc, hword, hkeep, hbytes, hrest⟩ :=
      exec_of_store_beyond (i := .opFX55 x) (bs := s.blockValues x) hs (hlen ▸ Nat.lt_succ_of_le hend) rfl
    exact ⟨t, hnext, hfault, hpc, hword, hkeep, fun r hr => hbytes _ _ (s.blockValues_getElem? hr), hlen ▸ hrest⟩

/-! ### The load of the register block -/

/-- Everything FX65 can do (R145, R179): it writes the registers whose bytes lie in memory, and moves `pc` or raises after them. -/
theorem execFX65_eq (x : Nibble) (s : State) : ∃ v : Vector Byte 16,
    (∀ r : Nibble, State.readV { s with v } r =
      if r.toNat ≤ x.toNat ∧ s.dataAddr r.toNat < Config.memSize then s.byte (s.dataAddr r.toNat) else s.readV r) ∧
    exec (.opFX65 x) s = .next (
      if s.dataAddr x.toNat < Config.memSize then State.advance (encode (.opFX65 x)) { s with v }
      else State.raise .outOfBounds (encode (.opFX65 x)) { s with v }) := by
  obtain ⟨u, hu, hregs, hload⟩ := s.loadBlock_spec (encode (.opFX65 x)) (x.toNat + 1) 0 (by have := x.isLt; omega)
  refine ⟨u.v, fun r => ?_, ?_⟩ <;> rw [← hu]
  · rw [hregs]
    exact if_congr (by omega) rfl rfl
  · have hfit : (x.toNat + 1 = 0 ∨ s.dataAddr (0 + (x.toNat + 1)) ≤ Config.memSize) ↔ s.dataAddr x.toNat < Config.memSize := by
      simp only [State.dataAddr_add]
      omega
    simp only [exec, execFX65, hload, hfit]
    split <;> rfl

/-- Settles O33: where I+X is an address, so is every I+r with r <= X. -/
theorem registersLoaded : Obligations.RegistersLoaded := by
  intro x s
  obtain ⟨v, hregs, hexec⟩ := execFX65_eq x s
  constructor
  · intro hfit hlt
    rw [if_pos hfit] at hexec
    obtain ⟨a, hpc, hexec⟩ := exec_of_advance hexec hlt
    have hall : ∀ r : Nibble, r.toNat ≤ x.toNat ∧ s.dataAddr r.toNat < Config.memSize ↔ r.toNat ≤ x.toNat := fun r =>
      and_iff_left_of_imp fun hr => (Nat.add_le_add_left hr _).trans_lt hfit
    exact ⟨_, hexec, fun r => (hregs r).trans (if_congr (hall r) rfl rfl), hpc, rfl, ⟨rfl, rfl⟩, fun _ => rfl,
      ⟨rfl, rfl, rfl⟩, rfl, rfl, rfl⟩
  · intro hend
    rw [if_neg (Nat.not_lt.mpr hend)] at hexec
    exact ⟨_, hexec, rfl, rfl, rfl, rfl, hregs, rfl, ⟨rfl, rfl⟩, fun _ => rfl, rfl, rfl, rfl⟩

/-! ### Assignments to `I` -/

/-- An assignment to `I` after which `pc + 2` is an address: nothing else changes. -/
theorem exec_of_setI {i : Instr} {a : Addr} {s : State} (hlt : s.pc.toNat + 2 < Config.memSize)
    (h : exec i s = .next ((s.setI a).advance (encode i))) :
    ∃ t, exec i s = .next t ∧ t.i = a ∧ t.pc.toNat = s.pc.toNat + 2 ∧ KeepsRegs [] s t ∧ KeepsStack s t ∧
      KeepsMemory s t ∧ KeepsLatch s t ∧ t.params = s.params ∧ KeepsEnv s t := by
  obtain ⟨pc, hpc, h⟩ := exec_of_advance h hlt
  exact ⟨_, h, rfl, hpc, fun _ _ => rfl, ⟨rfl, rfl⟩, fun _ => rfl, ⟨rfl, rfl, rfl⟩, rfl, rfl, rfl⟩

/-- Settles O28: the words of class A assign NNN to `I`. -/
theorem loadIndex : Obligations.LoadIndex :=
  ⟨fun w hw => decode_classA ((masked_class w 0xA).mp hw), fun _ _ hlt => exec_of_setI hlt rfl⟩

/-- Settles O29: the sum is checked before the assignment, so it is stored exactly or not at all. -/
theorem addToIndex : Obligations.AddToIndex := by
  refine fun x s => ⟨fun hsum hlt => ?_, fun hsum => ?_⟩
  · obtain ⟨t, ht, hi, hrest⟩ := exec_of_setI (i := .opFX1E x) hlt (congrArg Host.Outcome.next (if_pos hsum))
    exact ⟨t, ht, hi ▸ toNat_ofNat_addr hsum, hrest⟩
  · exact ⟨_, congrArg Host.Outcome.next (if_neg (Nat.not_lt.mpr hsum)), raisedFrom_raise ..⟩

theorem State.fontAddr_of_digit {b : Byte} {d : Fin 16} (h : b.toNat = d.val) (s : State) :
    s.fontAddr b = s.params.glyphAddr[d] := by
  obtain ⟨d, hd⟩ := d
  obtain rfl : b.toNat = d := h
  exact dif_pos hd

/-- Of the state, the font lookup uses the open parameters alone. -/
theorem State.fontAddr_congr {s s' : State} (h : s'.params = s.params) (b : Byte) : s'.fontAddr b = s.fontAddr b := by
  rw [State.fontAddr, State.fontAddr, h]

/-- What FX29 leaves in `I`, also where `pc + 2` is no address. -/
theorem i_of_execFX29 {x : Nibble} {s t : State} (h : exec (.opFX29 x) s = .next t) : t.i = s.fontAddr (s.readV x) := by
  obtain rfl := Host.Outcome.next.inj h
  exact State.advance_i ..

/-- Settles O30: both runs look the same byte up in the same table. -/
theorem fontAddressOfDigit : Obligations.FontAddressOfDigit := by
  intro x s hlt
  obtain ⟨t, ht, hi, hrest⟩ := exec_of_setI (i := .opFX29 x) hlt rfl
  refine ⟨t, ht, fun d hd => hi.trans (s.fontAddr_of_digit hd), fun x' s' t' hparams hbyte _ ht' => ?_, hrest⟩
  rw [i_of_execFX29 ht', i_of_execFX29 ht, hbyte, State.fontAddr_congr hparams]

end Sys2Proof.Machine
end

section
/-! PROOFS. The port instructions (44_peripheral.md R150 to R157): a transaction, at most one register write, and the `pc` update.
The transaction keeps the core; of the environment it takes the answer, where one is queued, and adds to the trace. -/

namespace Sys2Proof.Machine

open Sys2Proof

/-! ### What a transaction with an answer leaves of the environment (R10, R33) -/

theorem State.takeRandom_env (s : State) :
    s.takeRandom.2.env = { s.env with randoms := s.env.randoms.tail } := by
  unfold State.takeRandom
  split
  next hqueue => rw [hqueue, List.tail_cons]
  next hqueue => rw [hqueue, List.tail_nil, ← hqueue]

theorem State.rngNext_env (s : State) :
    s.rngNext.2.env =
      { s.env with randoms := s.env.randoms.tail, trace := s.env.trace ++ [.randomByte s.rngNext.1] } := by
  simp only [State.rngNext, State.emit, State.takeRandom_env]

theorem State.takeCollided_env (s : State) :
    s.takeCollided.2.env = { s.env with collisions := s.env.collisions.tail } := by
  unfold State.takeCollided
  split
  next hqueue => rw [hqueue, List.tail_cons]
  next hqueue => rw [hqueue, List.tail_nil, ← hqueue]

theorem State.drawSprite_env (x y : Byte) (bytes : List Byte) (s : State) :
    (s.drawSprite x y bytes).2.env =
      { s.env with
        collisions := s.env.collisions.tail
        trace := s.env.trace ++ [.drawSprite x y bytes (s.drawSprite x y bytes).1] } := by
  simp only [State.drawSprite, State.emit, State.takeCollided_env]

/-! ### The end of a sequential port instruction -/

/-- After work `u` that keeps the storage, where `pc + 2` is an address: only `pc` still moves (R23). -/
theorem exec_of_work {i : Instr} {rs : List Nibble} {s u : State} (hlt : s.pc.toNat + 2 < Config.memSize)
    (work : Worked rs s u) (storage : KeepsStorage s u) (h : exec i s = .next (u.advance (encode i))) :
    ∃ a : Addr, exec i s = .next (u.jumpTo a) ∧ a.toNat = s.pc.toNat + 2 ∧ KeepsCore rs s (u.jumpTo a) := by
  rw [← work.pc] at hlt ⊢
  obtain ⟨a, ha, hexec⟩ := exec_of_advance h hlt
  exact ⟨a, hexec, ha, work.keepsCore storage⟩

/-- A register write after a transaction `u`, the work of CXNN, DXYN and FX07. -/
theorem Worked.then_writeV {s u : State} (h : Worked [] s u) (x : Nibble) (b : Byte) : Worked [x] s (u.writeV x b) :=
  Worked.trans ⟨h.pc, h.latch, fun r _ => h.regs r List.not_mem_nil⟩ (.writeV List.mem_cons_self b u)

/-! ### Display, random source and timers -/

/-- Settles O34: the only word of its row is 0x00E0, and the transaction adds to the trace alone. -/
theorem clearDisplay : Obligations.ClearDisplay := by
  refine ⟨fun w hw => ?_, fun s hlt => ?_⟩
  · rw [(masked_whole w _).mp hw]
    exact decode_encode .op00E0
  · obtain ⟨a, hexec, hpc, hcore⟩ := exec_of_work (i := .op00E0) hlt (.emit .clear s) (.emit .clear s) rfl
    exact ⟨_, hexec, rfl, rfl, hpc, hcore⟩

/-- Settles O35: the answer is `State.rngNext`'s, and masking it with 0 leaves 0. -/
theorem maskedRandomByte : Obligations.MaskedRandomByte := by
  intro x nn s hlt
  obtain ⟨a, hexec, hpc, hcore⟩ := exec_of_work (i := .opCXNN x nn) hlt ((Worked.rngNext s).then_writeV ..)
    ((KeepsStorage.rngNext s).trans (.writeV ..)) rfl
  have hx := State.readV_writeV_self x (s.rngNext.1 &&& nn) s.rngNext.2
  refine ⟨s.rngNext.1, _, hexec, fun _ _ => State.rngNext_queued, hx, ?_, s.rngNext_env, hpc, hcore⟩
  rintro rfl
  exact hx.trans BitVec.and_zero

/-- A word of class F decodes to the instruction that its `NN` and `X` encode (R78). -/
theorem decode_of_masked_classF {w : Word} {y n : Nibble} {i : Instr} (h : w &&& 0xF0FF#16 = 0xF#4 ++ 0#4 ++ y ++ n)
    (hi : encode i = 0xF#4 ++ fieldX w ++ (y ++ n)) : decode w = .ok i := by
  obtain ⟨hc, hnn⟩ := (masked_class_nn w 0xF#4 y n).mp h
  rw [← eq_of_class_xnn hc hnn, ← hi]
  exact decode_encode i

/-- Settles O39: the register gets DT, and the read adds to the trace alone. -/
theorem readDelayTimer : Obligations.ReadDelayTimer := by
  refine ⟨fun w hw => decode_of_masked_classF (y := 0x0) (n := 0x7) hw rfl, fun x s hlt => ?_⟩
  obtain ⟨a, hexec, hpc, hcore⟩ := exec_of_work (i := .opFX07 x) hlt ((Worked.emit ..).then_writeV ..)
    ((KeepsStorage.emit ..).trans (.writeV ..)) rfl
  exact ⟨_, hexec, State.readV_writeV_self .., rfl, rfl, hpc, hcore⟩

/-- Settles O40: the transaction writes DT and the trace. -/
theorem setDelayTimer : Obligations.SetDelayTimer := by
  refine ⟨fun w hw => decode_of_masked_classF (y := 0x1) (n := 0x5) hw rfl, fun x s hlt => ?_⟩
  obtain ⟨a, hexec, hpc, hcore⟩ := exec_of_work (i := .opFX15 x) hlt (.setDelay _ s) (.setDelay _ s) rfl
  exact ⟨_, hexec, rfl, rfl, hpc, hcore⟩

/-- Settles O41: the transaction writes ST and the trace. -/
theorem setSoundTimer : Obligations.SetSoundTimer := by
  refine ⟨fun w hw => decode_of_masked_classF (y := 0x1) (n := 0x8) hw rfl, fun x s hlt => ?_⟩
  obtain ⟨a, hexec, hpc, hcore⟩ := exec_of_work (i := .opFX18 x) hlt (.setSound _ s) (.setSound _ s) rfl
  exact ⟨_, hexec, rfl, rfl, hpc, hcore⟩

/-! ### Keypad -/

/-- Settles O37: where `pc + 4` is an address so is `pc + 2`, and SKNP skips on the answer negated. -/
theorem skipOnKey : Obligations.SkipOnKey := by
  intro x s hlt
  have htarget : ∀ c : Bool, s.pc.toNat + (if c then 4 else 2) < Config.memSize := fun c => by split <;> omega
  obtain ⟨hpc, hcore⟩ := State.isPressed_skipIf_of_lt (s.readV x) (encode (.opEX9E x)) (htarget (s.isPressed (s.readV x)).1)
  obtain ⟨hpc', hcore'⟩ := State.isPressed_skipIf_of_lt (s.readV x) (encode (.opEXA1 x)) (htarget !(s.isPressed (s.readV x)).1)
  refine ⟨(s.isPressed (s.readV x)).1, fun b rest hqueue => State.isPressed_queued _ hqueue,
    ⟨_, rfl, (State.skipIf_env ..).trans (s.isPressed_env _), hpc, hcore⟩,
    ⟨_, rfl, (State.skipIf_env ..).trans (s.isPressed_env _), hpc'.trans ?_, hcore'⟩⟩
  cases (s.isPressed (s.readV x)).1 <;> rfl

/-! ### Sprites -/

/-- The sprite of DXYN: the `n` bytes from I on, in order (R152). -/
def State.sprite (n : Nibble) (s : State) : List Byte := (List.range n.toNat).map fun k => s.byte (s.dataAddr k)

section
variable (x y : Nibble) {n : Nibble} {s : State}

/-- A sprite that lies in memory is drawn, and VF gets the answer. -/
theorem execDXYN_of_within (h : n = 0 ∨ s.dataAddr n.toNat ≤ Config.memSize) :
    exec (.opDXYN x y n) s = .next (((s.drawSprite (s.readV x) (s.readV y) (s.sprite n)).2.writeV flagReg
      (flagByte (s.drawSprite (s.readV x) (s.readV y) (s.sprite n)).1)).advance (encode (.opDXYN x y n))) := by
  have hread : s.memReadN (s.dataAddr 0) n.toNat = some (s.sprite n) :=
    (s.memReadN_dataAddr _).trans (if_pos (h.imp_left (congrArg BitVec.toNat)))
  simp only [exec, execDXYN, hread]

/-- A sprite of which a byte lies beyond memory raises OutOfBounds before the transaction. -/
theorem execDXYN_of_beyond (hn : n ≠ 0) (h : Config.memSize < s.dataAddr n.toNat) :
    exec (.opDXYN x y n) s = .next (s.raise .outOfBounds (encode (.opDXYN x y n))) := by
  have hread : s.memReadN (s.dataAddr 0) n.toNat = none :=
    (s.memReadN_dataAddr _).trans (if_neg (not_or.mpr ⟨fun h0 => hn (BitVec.eq_of_toNat_eq h0), Nat.not_le.mpr h⟩))
  simp only [exec, execDXYN, hread]

end

/-- Settles O36: the sprite is read before the display is asked, so a byte beyond memory leaves the environment alone. -/
theorem drawSpriteSetsCollision : Obligations.DrawSpriteSetsCollision := by
  refine fun x y n s => ⟨fun hfit hlt => ?_, fun hn hbeyond => ⟨_, execDXYN_of_beyond x y hn hbeyond, raisedFrom_raise ..⟩⟩
  obtain ⟨a, hexec, hpc, hcore⟩ := exec_of_work hlt ((Worked.drawSprite ..).then_writeV flagReg _)
    ((KeepsStorage.drawSprite ..).trans (.writeV ..)) (execDXYN_of_within x y hfit)
  exact ⟨(s.drawSprite (s.readV x) (s.readV y) (s.sprite n)).1, _, hexec, fun _ _ => State.drawSprite_queued _ _ _,
    State.readV_writeV_self .., State.drawSprite_env .., hpc, hcore⟩

end Sys2Proof.Machine
end

section
/-! PROOFS. How many transactions an instruction makes (44_peripheral.md R158; 60_exceptions.md R179): `exec_envEffect` says once,
over the instructions, what each does to the environment; O47 reads it off. -/

namespace Sys2Proof.Machine

open Sys2Proof

/-! ### The operations that leave the environment alone -/

namespace KeepsEnv

variable {s u : State}

theorem setPc (h : KeepsEnv s u) (n : Nat) (w : Word) : KeepsEnv s (u.setPc n w) := by
  obtain ⟨henv, hdraws⟩ := h
  exact ⟨(State.setPc_env ..).trans henv, (State.setPc_draws ..).trans hdraws⟩

theorem advance (h : KeepsEnv s u) (w : Word) : KeepsEnv s (u.advance w) := h.setPc _ w

theorem skipIf (h : KeepsEnv s u) (c : Bool) (w : Word) : KeepsEnv s (u.skipIf c w) := h.setPc _ w

theorem storeBytes_advance (w : Word) (a : Nat) (bs : List Byte) (s : State) :
    KeepsEnv s ((s.storeBytes w a bs).andThen (State.advance w)) := by
  rw [State.storeBytes_eq]
  split
  · exact advance ⟨rfl, rfl⟩ w
  · exact ⟨rfl, rfl⟩

end KeepsEnv

/-! ### The instructions whose outcome depends on a check -/

theorem exec00EE_keepsEnv {s t : State} (h : exec .op00EE s = .next t) : KeepsEnv s t := by
  obtain rfl := Host.Outcome.next.inj h
  rcases s.pop_cases with ⟨_, _, -, hpop⟩ | ⟨-, hpop⟩ <;> simp only [hpop] <;> exact ⟨rfl, rfl⟩

theorem exec2NNN_keepsEnv {nnn : Addr} {s t : State} (h : exec (.op2NNN nnn) s = .next t) : KeepsEnv s t := by
  obtain rfl := Host.Outcome.next.inj h
  split
  · rcases s.push_cases (BitVec.ofNat 12 (s.pc.toNat + 2)) with ⟨_, hpush⟩ | ⟨-, hpush⟩ <;> simp only [hpush] <;>
      exact ⟨rfl, rfl⟩
  · exact ⟨rfl, rfl⟩

theorem execFX1E_keepsEnv {x : Nibble} {s t : State} (h : exec (.opFX1E x) s = .next t) : KeepsEnv s t := by
  obtain rfl := Host.Outcome.next.inj h
  split
  · exact .advance ⟨rfl, rfl⟩ _
  · exact ⟨rfl, rfl⟩

theorem execFX65_keepsEnv {x : Nibble} {s t : State} (h : exec (.opFX65 x) s = .next t) : KeepsEnv s t := by
  obtain ⟨v, -, hexec⟩ := execFX65_eq x s
  obtain rfl := Host.Outcome.next.inj (hexec.symm.trans h)
  split
  · exact .advance ⟨rfl, rfl⟩ _
  · exact ⟨rfl, rfl⟩

/-! ### Every instruction -/

/-- What an instruction can do to the environment: one transaction of its own, nothing because a sprite byte lies beyond memory,
or nothing because it has no port. -/
inductive EnvEffect (i : Instr) (s t : State) : Prop
  | transaction {e : PortEvent} (own : transacts i e) (within : ¬ spriteBeyond i s)
      (trace : t.env.trace = s.env.trace ++ [e])
  | beyond (beyond : spriteBeyond i s) (fault : t.fault = .outOfBounds) (keeps : KeepsEnv s t)
  | silent (noPort : ∀ e, ¬ transacts i e) (keeps : KeepsEnv s t)

/-- Only a DXYN has a sprite. -/
theorem not_spriteBeyond {i : Instr} {s : State} (hi : ∀ x y n, i ≠ .opDXYN x y n) : ¬ spriteBeyond i s := by
  rintro ⟨x, y, n, h, -⟩
  exact hi x y n h

namespace EnvEffect

variable {i : Instr} {e : PortEvent} {c : Bool} {n : Nat} {w : Word} {s u : State}

/-- The transaction stays made whether the `pc` update after it moves `pc` or raises (R179). -/
theorem setPc (own : transacts i e) (within : ¬ spriteBeyond i s) (trace : u.env.trace = s.env.trace ++ [e]) :
    EnvEffect i s (u.setPc n w) :=
  .transaction own within ((congrArg Env.trace (State.setPc_env n w u)).trans trace)

theorem advance (own : transacts i e) (within : ¬ spriteBeyond i s) (trace : u.env.trace = s.env.trace ++ [e]) :
    EnvEffect i s (u.advance w) := setPc own within trace

theorem skipIf (own : transacts i e) (within : ¬ spriteBeyond i s) (trace : u.env.trace = s.env.trace ++ [e]) :
    EnvEffect i s (u.skipIf c w) := setPc own within trace

end EnvEffect

theorem execDXYN_envEffect {x y n : Nibble} {s t : State} (h : exec (.opDXYN x y n) s = .next t) :
    EnvEffect (.opDXYN x y n) s t := by
  by_cases hfit : n = 0 ∨ s.dataAddr n.toNat ≤ Config.memSize
  · obtain rfl := Host.Outcome.next.inj ((execDXYN_of_within x y hfit).symm.trans h)
    refine .advance (by simp [transacts]) ?_ (s.drawSprite_trace (s.readV x) (s.readV y) (s.sprite n))
    rintro ⟨_, _, _, ⟨⟩, hn, hbeyond⟩
    exact hfit.elim hn (Nat.not_le.mpr hbeyond)
  · obtain ⟨hn, hbeyond⟩ := not_or.mp hfit
    rw [Nat.not_le] at hbeyond
    obtain rfl := Host.Outcome.next.inj ((execDXYN_of_beyond x y hn hbeyond).symm.trans h)
    exact .beyond ⟨x, y, n, rfl, hn, hbeyond⟩ rfl ⟨rfl, rfl⟩

/-- What each instruction does to the environment, completed or faulted (R158, R179). -/
theorem exec_envEffect {i : Instr} {s t : State} (h : exec i s = .next t) : EnvEffect i s t := by
  cases i with
  | opDXYN => exact execDXYN_envEffect h
  | opCXNN => cases h; exact .advance (by simp [transacts]) (not_spriteBeyond nofun) s.rngNext_trace
  | opEX9E x | opEXA1 x =>
    cases h; exact .skipIf (by simp [transacts]) (not_spriteBeyond nofun) (s.isPressed_trace (s.readV x))
  | op00E0 | opFX07 | opFX15 | opFX18 => cases h; exact .advance (by simp [transacts]) (not_spriteBeyond nofun) rfl
  | op00EE => exact .silent (by simp [transacts]) (exec00EE_keepsEnv h)
  | op2NNN => exact .silent (by simp [transacts]) (exec2NNN_keepsEnv h)
  | opFX1E => exact .silent (by simp [transacts]) (execFX1E_keepsEnv h)
  | opFX65 => exact .silent (by simp [transacts]) (execFX65_keepsEnv h)
  | op1NNN => cases h; exact .silent (by simp [transacts]) ⟨rfl, rfl⟩
  | opBNNN => cases h; exact .silent (by simp [transacts]) (.setPc ⟨rfl, rfl⟩ ..)
  | op3XNN | op4XNN | op5XY0 | op9XY0 => cases h; exact .silent (by simp [transacts]) (.skipIf ⟨rfl, rfl⟩ ..)
  | opFX33 | opFX55 => cases h; exact .silent (by simp [transacts]) (.storeBytes_advance ..)
  | op6XNN | op7XNN | op8XY0 | op8XY1 | op8XY2 | op8XY3 | op8XY4 | op8XY5 | op8XY6 | op8XY7 | op8XYE | opANNN | opFX29 =>
    cases h; exact .silent (by simp [transacts]) (.advance ⟨rfl, rfl⟩ _)

/-- A DXYN whose sprite lies beyond memory is still an instruction with a port. -/
theorem spriteBeyond.exists_transacts {i : Instr} {s : State} (h : spriteBeyond i s) : ∃ e, transacts i e := by
  obtain ⟨x, y, n, rfl, -⟩ := h
  exact ⟨.drawSprite 0 0 [] false, by simp [transacts]⟩

/-- Settles O47: the three clauses are the three effects, of which no two meet. -/
theorem oneTransactionPerPortInstruction : Obligations.OneTransactionPerPortInstruction := by
  intro i s t h
  cases exec_envEffect h with
  | transaction own within trace =>
    exact ⟨fun _ _ => ⟨_, own, trace⟩, fun hbeyond => absurd hbeyond within, fun hno => absurd own (hno _)⟩
  | beyond hbeyond fault keeps => exact ⟨fun _ hwithin => absurd hbeyond hwithin, fun _ => ⟨fault, keeps⟩, fun _ => keeps⟩
  | silent noPort keeps =>
    refine ⟨fun ⟨e, own⟩ => absurd own (noPort e), fun hbeyond => ?_, fun _ => keeps⟩
    obtain ⟨e, own⟩ := hbeyond.exists_transacts
    exact absurd own (noPort e)

end Sys2Proof.Machine
end

section
/-! PROOFS. The faults of a step (60_exceptions.md R170 to R174, R178, R179; the spec's decisions D8, D9): a word that is no
instruction, and an instruction that halts the core, each end in one `State.raise` at the instruction's own `pc`. -/

namespace Sys2Proof.Machine

open Sys2Proof

/-- Settles O11: the ticks leave the word at `pc` alone, and of the state after them the step writes the latch alone. -/
theorem decodeErrorIsLatched : Obligations.DecodeErrorIsLatched := by
  intro s w hhalt hfetch hw
  cases hd : decode w with
  | ok i => exact absurd hd (hw i)
  | error r =>
    have hstep := runOne_of_invalid (s.betweenSteps_fetch.trans hfetch) hd
    exact ⟨_, (step_of_not_halted hhalt).trans hstep, raisedFrom_raise ..⟩

/-- A `pc` update to a number that is no address belongs neither to RET nor to JP, whose targets have 12 bits (R174). -/
theorem PcTarget.canRaise {i : Instr} {s : State} {n : Nat} (target : PcTarget i s n) (h : Config.memSize ≤ n) :
    CanRaise i s .outOfBounds := by
  have h12 : ∀ a : Addr, n ≠ a.toNat := fun a ha => absurd (ha ▸ a.isLt) (Nat.not_lt.mpr h)
  constructor
  · rintro rfl
    obtain ⟨k, -, hn⟩ := target
    exact h12 _ hn
  · rintro nnn rfl
    exact h12 nnn target

/-- An instruction that halts the core ends in a `raise` it can make, with `pc` where it was (R178, R179). -/
theorem exec_raised {i : Instr} {s t : State} (hs : s.halted = false) (h : exec i s = .next t) (ht : t.halted = true) :
    ∃ (u : State) (k : FaultKind), u.pc = s.pc ∧ CanRaise i s k ∧ t = u.raise k (encode i) := by
  cases exec_ends h with
  | @setPc u n work target =>
    rcases State.setPc_cases n (encode i) u with ⟨-, he⟩ | ⟨hge, he⟩
    · obtain ⟨hfault, -, -⟩ := work.latch
      rw [he, State.jumpTo_halted, State.halted, hfault] at ht
      exact absurd (hs.symm.trans ht) Bool.false_ne_true
    · exact ⟨u, _, work.pc, target.canRaise hge, he⟩
  | @raise u k work _ cause => exact ⟨u, k, work.pc, cause, rfl⟩

/-- Settles O43: `CanRaise` holds of the kind that is latched, and it is the statement's table of causes. -/
theorem raiseReportsTheInstruction : Obligations.RaiseReportsTheInstruction := by
  intro i s t hs h ht
  obtain ⟨u, k, hpc, cause, rfl⟩ := exec_raised hs h ht
  refine ⟨hpc, hpc, rfl, ?_, ?_, ?_, ?_⟩ <;> rintro rfl <;> exact cause

end Sys2Proof.Machine
end

section
/-! PROOFS. The timers over a step (60_exceptions.md R182, D15): the ticks before it lower them, and of the instructions FX15 alone
writes DT and FX18 alone ST. -/

namespace Sys2Proof.Machine

open Sys2Proof

theorem fits_of_not_spriteBeyond {x y n : Nibble} {s : State} (h : ¬ spriteBeyond (.opDXYN x y n) s) :
    n = 0 ∨ s.dataAddr n.toNat ≤ Config.memSize := by
  by_contra hno
  obtain ⟨hn, hbeyond⟩ := not_or.mp hno
  exact h ⟨x, y, n, rfl, hn, Nat.not_le.mp hbeyond⟩

/-- An instruction without a port keeps the environment; of the port instructions only the two that set a timer write one. -/
theorem exec_timers {i : Instr} {s t : State} (h : exec i s = .next t) :
    ((∀ x, i ≠ .opFX15 x) → t.env.dt = s.env.dt) ∧ ((∀ x, i ≠ .opFX18 x) → t.env.st = s.env.st) := by
  cases exec_envEffect h with
  | beyond _ _ keeps | silent _ keeps =>
    obtain ⟨henv, -⟩ := keeps
    exact ⟨fun _ => congrArg Env.dt henv, fun _ => congrArg Env.st henv⟩
  | transaction own within _ =>
    cases i with
    | opDXYN x y n =>
      obtain rfl := Host.Outcome.next.inj ((execDXYN_of_within x y (fits_of_not_spriteBeyond within)).symm.trans h)
      simp
    | op00E0 | opCXNN | opEX9E | opEXA1 | opFX07 | opFX15 | opFX18 => cases h; simp
    | _ => simp [transacts] at own

/-- The same for what a core that is not halted does: a fault of the fetch or of the decoder leaves the environment alone. -/
theorem runOne_timers {s t : State} (h : runOne s = .next t) :
    ((∀ w x, s.fetch = some w → decode w ≠ .ok (.opFX15 x)) → t.env.dt = s.env.dt) ∧
      ((∀ w x, s.fetch = some w → decode w ≠ .ok (.opFX18 x)) → t.env.st = s.env.st) := by
  cases hfetch : s.fetch with
  | none =>
    rw [runOne_of_no_fetch hfetch] at h
    cases h
    exact ⟨fun _ => rfl, fun _ => rfl⟩
  | some w =>
    cases hd : decode w with
    | error =>
      rw [runOne_of_invalid hfetch hd] at h
      cases h
      exact ⟨fun _ => rfl, fun _ => rfl⟩
    | ok i =>
      rw [runOne_of_valid hfetch hd] at h
      obtain ⟨hdt, hst⟩ := exec_timers h
      exact ⟨fun hno => hdt fun x hi => hno w x rfl (hi ▸ hd), fun hno => hst fun x hi => hno w x rfl (hi ▸ hd)⟩

/-- Settles O48: the ticks lower a timer, if they move it, and the instruction of the step leaves it where they left it. -/
theorem timersNeverIncrease : Obligations.TimersNeverIncrease := by
  intro s t h
  cases hhalt : s.halted with
  | true =>
    rw [step_of_halted hhalt] at h
    cases h
  | false =>
    rw [step_of_not_halted hhalt] at h
    obtain ⟨hdt, hst⟩ := runOne_timers h
    rw [s.betweenSteps_fetch] at hdt hst
    refine ⟨fun hno => ?_, fun hno => ?_⟩
    · rw [hdt hno, s.betweenSteps_dt_toNat]
      exact Nat.sub_le ..
    · rw [hst hno, s.betweenSteps_st_toNat]
      exact Nat.sub_le ..

end Sys2Proof.Machine
end

section
/-! PROOFS. The sequential instructions at the last two addresses (60_exceptions.md R174, R179; the spec's decisions D3, D8). The
work of a sequential instruction neither reads nor writes `pc`, so that it is the same from every address; only the `pc` update
after it depends on where the instruction stands. -/

namespace Sys2Proof.Machine

open Sys2Proof

/-! ### The operations that read `pc` nowhere -/

theorem State.rngNext_jumpTo (a : Addr) (s : State) : (s.jumpTo a).rngNext = (s.rngNext.1, s.rngNext.2.jumpTo a) := by
  unfold State.rngNext State.takeRandom State.jumpTo
  cases s.env.randoms <;> rfl

theorem State.drawSprite_jumpTo (x y : Byte) (bytes : List Byte) (a : Addr) (s : State) :
    (s.jumpTo a).drawSprite x y bytes = ((s.drawSprite x y bytes).1, (s.drawSprite x y bytes).2.jumpTo a) := by
  unfold State.drawSprite State.takeCollided State.jumpTo
  cases s.env.collisions <;> rfl

theorem State.sprite_jumpTo (n : Nibble) (a : Addr) (s : State) : (s.jumpTo a).sprite n = s.sprite n := rfl

/-- From every `pc` the loop `run` does the same to `s` and ends alike: done, or at a byte beyond memory, which raises (R9). -/
def SameProgressFromEveryPc (w : Word) (run : State → Progress) (s : State) : Prop :=
  (∃ u : State, ∀ a, run (s.jumpTo a) = .done (u.jumpTo a)) ∨
    (∃ u : State, ∀ a, run (s.jumpTo a) = .raised ((u.jumpTo a).raise .outOfBounds w))

theorem State.storeBytes_sameProgress (w : Word) (a : Nat) (bs : List Byte) (s : State) :
    SameProgressFromEveryPc w (State.storeBytes w a bs) s := by
  by_cases hfit : bs = [] ∨ a + bs.length ≤ Config.memSize
  · exact .inl ⟨s.placeBytes a bs, fun _ => (State.storeBytes_eq ..).trans (if_pos hfit)⟩
  · exact .inr ⟨s.placeBytes a bs, fun _ => (State.storeBytes_eq ..).trans (if_neg hfit)⟩

theorem State.loadBlock_sameProgress (w : Word) (n k : Nat) (s : State) :
    SameProgressFromEveryPc w (State.loadBlock w n k) s := by
  induction n generalizing k s with
  | zero => exact .inl ⟨s, fun _ => rfl⟩
  | succ n ih =>
    have hread : ∀ a, (s.jumpTo a).memRead ((s.jumpTo a).dataAddr k) = s.memRead (s.dataAddr k) := fun _ => rfl
    simp only [SameProgressFromEveryPc, State.loadBlock, hread]
    cases s.memRead (s.dataAddr k) with
    | some b => exact ih (k + 1) (s.writeV (BitVec.ofNat 4 k) b)
    | none => exact .inr ⟨s, fun _ => rfl⟩

/-! ### The instructions -/

/-- From every `pc` the instruction does the same work on `s`, which ends in `u`; then comes the `pc` update, or the work itself
has raised OutOfBounds. -/
inductive SameWorkFromEveryPc (i : Instr) (s : State) : Prop
  | advance (u : State) (h : ∀ a : Addr, exec i (s.jumpTo a) = .next ((u.jumpTo a).advance (encode i)))
  | raise (u : State) (h : ∀ a, exec i (s.jumpTo a) = .next ((u.jumpTo a).raise .outOfBounds (encode i)))

namespace SameWorkFromEveryPc

variable {i : Instr} {s : State}

/-- An instruction whose work is an update that commutes with an assignment to `pc`. -/
theorem of_update {f : State → State} (h : ∀ s, exec i s = .next ((f s).advance (encode i)))
    (hcomm : ∀ a, f (s.jumpTo a) = (f s).jumpTo a) : SameWorkFromEveryPc i s :=
  .advance (f s) fun a => hcomm a ▸ h _

/-- An instruction whose work is a loop. -/
theorem of_loop {run : State → Progress} (hrun : SameProgressFromEveryPc (encode i) run s)
    (h : ∀ a, exec i (s.jumpTo a) = .next ((run (s.jumpTo a)).andThen (State.advance (encode i)))) :
    SameWorkFromEveryPc i s := by
  rcases hrun with ⟨u, hrun⟩ | ⟨u, hrun⟩
  · exact .advance u fun a => by rw [h, hrun, Progress.done_andThen]
  · exact .raise u fun a => by rw [h, hrun, Progress.raised_andThen]

theorem opDXYN (x y n : Nibble) : SameWorkFromEveryPc (.opDXYN x y n) s := by
  by_cases hfit : n = 0 ∨ s.dataAddr n.toNat ≤ Config.memSize
  · refine .advance ((s.drawSprite (s.readV x) (s.readV y) (s.sprite n)).2.writeV flagReg
      (flagByte (s.drawSprite (s.readV x) (s.readV y) (s.sprite n)).1)) fun a => ?_
    rw [execDXYN_of_within x y (s := s.jumpTo a) hfit, State.jumpTo_readV, State.jumpTo_readV, State.sprite_jumpTo,
      State.drawSprite_jumpTo]
    rfl
  · obtain ⟨hn, hbeyond⟩ := not_or.mp hfit
    exact .raise s fun a => execDXYN_of_beyond x y (s := s.jumpTo a) hn (Nat.not_le.mp hbeyond)

theorem opFX1E (x : Nibble) : SameWorkFromEveryPc (.opFX1E x) s := by
  by_cases hsum : s.dataAddr (s.readV x).toNat < Config.memSize
  · exact .advance (s.setI (BitVec.ofNat 12 (s.dataAddr (s.readV x).toNat))) fun _ => congrArg Host.Outcome.next (if_pos hsum)
  · exact .raise s fun _ => congrArg Host.Outcome.next (if_neg hsum)

end SameWorkFromEveryPc

theorem exec_sameWorkFromEveryPc {i : Instr} (hi : sequential i = true) (s : State) : SameWorkFromEveryPc i s := by
  cases i with
  | op00EE | op1NNN | op2NNN | opBNNN | op3XNN | op4XNN | op5XY0 | op9XY0 | opEX9E | opEXA1 => cases hi
  | opDXYN => exact .opDXYN ..
  | opFX1E => exact .opFX1E _
  | opFX33 x => exact .of_loop (s.storeBytes_sameProgress _ (s.dataAddr 0) (decimalDigits (s.readV x))) fun _ => rfl
  | opFX55 x => exact .of_loop (s.storeBytes_sameProgress _ (s.dataAddr 0) (s.blockValues x)) fun _ => rfl
  | opFX65 x => exact .of_loop (State.loadBlock_sameProgress ..) fun _ => rfl
  | opCXNN x nn =>
    exact .of_update (fun _ => rfl) fun a =>
      congrArg (fun p : Byte × State => p.2.writeV x (p.1 &&& nn)) (s.rngNext_jumpTo a)
  | op00E0 | op6XNN | op7XNN | op8XY0 | op8XY1 | op8XY2 | op8XY3 | op8XY4 | op8XY5 | op8XY6 | op8XY7 | op8XYE | opANNN
  | opFX07 | opFX15 | opFX18 | opFX29 => exact .of_update (fun _ => rfl) fun _ => rfl

/-- Settles O42: the work is the one from 0x200, and both ends raise at the `pc` the instruction stands at. -/
theorem pcUpdateOutOfBounds : Obligations.PcUpdateOutOfBounds := by
  intro i s hi hend
  cases exec_sameWorkFromEveryPc hi s with
  | advance u h =>
    refine ⟨_, _, (h s.pc).trans (congrArg _ (State.advance_of_ge _ hend)), h 0x200, ?_⟩
    simp
  | raise u h => exact ⟨_, _, h s.pc, h 0x200, rfl, rfl, rfl, rfl, rfl, rfl, rfl, rfl, rfl, rfl, rfl⟩

end Sys2Proof.Machine
end

section
/-! PROOFS. When a step has a successor (70_reset_and_hazards.md R208; 60_exceptions.md R180): the latch alone decides, for a core
that runs answers every fetch and every instruction with a next state, the faults included (R178). -/

namespace Sys2Proof.Machine

open Sys2Proof

/-- No instruction refuses and none stops the run itself: a fault it raises is latched in the next state (log 7). -/
theorem exec_eq_next (i : Instr) (s : State) : ∃ t, exec i s = .next t := by
  cases i <;> exact ⟨_, rfl⟩

/-- The same for fetch and decoding: their faults are next states too. -/
theorem runOne_eq_next (s : State) : ∃ t, runOne s = .next t := by
  cases hfetch : s.fetch with
  | none => exact ⟨_, runOne_of_no_fetch hfetch⟩
  | some w =>
    cases hd : decode w with
    | error => exact ⟨_, runOne_of_invalid hfetch hd⟩
    | ok i => rw [runOne_of_valid hfetch hd]; exact exec_eq_next i s

/-- Settles O12: a halted core's answer is its own report, and otherwise the step is `runOne` after the ticks. -/
theorem stepStopsExactlyWhenHalted : Obligations.StepStopsExactlyWhenHalted := fun s =>
  ⟨step_of_halted, fun hrun => step_of_not_halted hrun ▸ runOne_eq_next s.betweenSteps⟩

end Sys2Proof.Machine
end

section
/-! PROOFS. LOAD (70_reset_and_hazards.md R203; 60_exceptions.md R188): an image that fits is one `State.placeBytes` at LOAD_ADDR. -/

namespace Sys2Proof.Machine

open Sys2Proof

theorem imageFits_iff {loadAddr : Addr} {image : List Byte} :
    imageFits loadAddr image = true ↔ loadAddr.toNat + image.length ≤ Config.memSize :=
  decide_eq_true_iff

theorem State.load_of_fits {s : State} {image : List Byte}
    (h : s.params.loadAddr.toNat + image.length ≤ Config.memSize) :
    s.load image = some (s.placeBytes s.params.loadAddr.toNat image) :=
  if_pos (imageFits_iff.mpr h)

theorem State.load_of_beyond {s : State} {image : List Byte}
    (h : Config.memSize < s.params.loadAddr.toNat + image.length) : s.load image = none :=
  if_neg (mt imageFits_iff.mp (Nat.not_le.mpr h))

/-- Settles O52: the placed bytes are read back where they were placed, and placing writes memory alone. -/
theorem loadPlacesImage : Obligations.LoadPlacesImage := by
  intro s image hmem
  refine ⟨fun hfit => ⟨_, State.load_of_fits hfit, fun k b hb => ?_, s.placeBytes_keepsBytes _ image, ?_⟩,
    State.load_of_beyond⟩
  · obtain ⟨hk, -⟩ := List.getElem?_eq_some_iff.mp hb
    exact State.placeBytes_byte_of_getElem? hmem hb (by omega)
  · exact ⟨rfl, fun _ _ => rfl, rfl, ⟨rfl, rfl⟩, ⟨rfl, rfl, rfl⟩, rfl, rfl, rfl⟩

end Sys2Proof.Machine
end

section
/-! PROOFS. The sample words E1 to E10 (95_test_vectors.md section 2.1): each is the encoding of its row's instruction. -/

namespace Sys2Proof

/-- A word that is the encoding of an instruction decodes to it (O2, read from the word). -/
theorem decode_of_encode_eq {w : Word} {i : Instr} (h : encode i = w) : decode w = .ok i :=
  h ▸ decode_encode i

/-- Settles O7: each word is put together from the fixed digits of its row and the operands. -/
theorem sampleWordsDecode : Obligations.SampleWordsDecode := by
  refine ⟨?_, ?_, ?_, ?_, ?_, ?_, ?_, ?_, ?_, ?_⟩ <;> exact decode_of_encode_eq (by decide)

end Sys2Proof
end
